-- ==== Sys2Proof/Word.lean ====
section
/-! DEFINITION. The word types of the block and their plainest arithmetic (spec/00_scope.md R9, spec/42_scheduler.md R150). -/

namespace Sys2Proof

/-- 8 bits (R9). -/
abbrev Byte := BitVec 8

/-- "4-bit half of a byte" (R9, R12). -/
abbrev Nibble := BitVec 4

/-- A time in microseconds, unsigned 64 bits (R9); addition and subtraction are modulo 2^64 (D27). -/
abbrev Tick := BitVec 64

/-- Unsigned maximum (R9, R150). -/
def umax (a b : Tick) : Tick := if a < b then b else a

/-- Unsigned minimum (R9, R150). -/
def umin (a b : Tick) : Tick := if b < a then b else a

end Sys2Proof
end

