-- ==== Sys2Proof/Config.lean ====
section
/-! DEFINITION. The implementation parameters of spec/00_scope.md R6 with their legality (R6, R7), and the FREE VALUES: what the
spec leaves to the environment, as constants without a body, about which nothing can be proved. -/

namespace Sys2Proof

/-- The `backendConfig` operand of INIT (R191): "a closed, platform-specific configuration with recognized fields". It is passed
to `Transport.open` unread. That a configuration has exactly one of the three groups of fields, that the path is a `String` and that
handles, ports and pins are natural numbers is the model's choice (log 20, DESIGN CHOICE). -/
inductive BackendConfig where
  | devicePath (path : String)
  | busHandle (bus : Nat)
  | newBus (port sda scl : Nat)
  deriving DecidableEq, Repr

/-- What `Transport.writeByte` answers (R193). A failed write "says nothing about whether the expander's outputs changed" (U7), so
a failure comes in two forms. -/
inductive WriteAnswer where
  | ok
  | failUnchanged
  | failChanged
  deriving DecidableEq, Repr, Inhabited

/-- Whether the answer is `ok`. -/
def WriteAnswer.isOk : WriteAnswer → Bool
  | .ok => true
  | .failUnchanged => false
  | .failChanged => false

/-- The parameters of R6. A machine holds one such record, which no operation writes (R201). -/
structure Config where
  addrPresetA : Byte
  addrPresetB : Byte
  rowOff0 : Byte
  rowOff1 : Byte
  rowOff2 : Byte
  rowOff3 : Byte
  rowCount : Nat
  columnCount : Nat
  powerOnDelay : Tick
  initDelay1 : Tick
  initDelay2 : Tick
  enableSettle : Tick
  enablePulse : Tick
  settleFloor : Tick
  delayClear : Tick
  delayHome : Tick
  delayDisplayControl : Tick
  delayEntryMode : Tick
  delayShift : Tick
  delayFunctionSet : Tick
  delaySetDdram : Tick
  delayData : Tick
  maxWait : Tick
  stringCap : Nat
  stringTerminator : Byte
  rsBit : Byte
  rwBit : Byte
  enBit : Byte
  backlightBit : Byte
  cmdClear : Byte
  cmdHome : Byte
  cmdEntryMode : Byte
  cmdDisplayControl : Byte
  cmdShift : Byte
  cmdFunctionSet : Byte
  cmdSetCgram : Byte
  cmdSetDdram : Byte
  emIncrement : Byte
  emShift : Byte
  dcDisplay : Byte
  dcCursor : Byte
  dcBlink : Byte
  shDisplay : Byte
  shRight : Byte
  fs8Bit : Byte
  fs2Line : Byte
  fs5x10 : Byte
  i2cSpeed : Nat
  i2cTimeoutMs : Nat
  requesterCount : Nat
  codeSuccess : Byte
  codeAllocationFailure : Byte
  codeBackendOpenFailure : Byte
  codeTransferFailure : Byte
  codeInitSequenceFailure : Byte
  codeInvalidArgument : Byte
  deriving DecidableEq, Repr

/-! ### Free values (spec/93_implementation_defined.md). Each stands for "any value": a statement that mentions one holds for
every value of it. -/

/-- The `speed` argument of `Transport.open`, OPEN (R191, U11; log 6). -/
opaque Config.openSpeed : Nat

/-- The `timeoutMs` argument of `Transport.open`, OPEN (R191, U11; log 6). -/
opaque Config.openTimeoutMs : Nat

/-- What the expander's outputs hold at power-on, "any value" (U19; log 7). -/
opaque Config.expanderPowerOn : Byte

/-- The Clock's value at power-on: its epoch is not named (R197; log 8). -/
opaque Config.clockPowerOn : Nat

/-- How long a port event takes beyond what the block requested, at draw `n` (U16; log 9). -/
opaque Config.freeElapsed (n : Nat) : Nat

/-- Whether the allocation of INIT line I1 succeeds, at draw `n` (U8; log 9). -/
opaque Config.freeAlloc (n : Nat) : Bool

/-- Whether `Transport.open` succeeds, at draw `n` (U8; log 9). -/
opaque Config.freeOpen (n : Nat) : Bool

/-- Whether `Lock.create` succeeds, at draw `n` (U8; log 9). -/
opaque Config.freeCreate (n : Nat) : Bool

/-- What `Transport.writeByte` answers, at draw `n` (U7, U8; log 9). -/
opaque Config.freeWrite (n : Nat) : WriteAnswer

/-- Which of several requesters that have a step moves next, at draw `n` (U14, U15; log 10). -/
opaque Config.freeChoice (n : Nat) : Nat

/-- The register select of a byte that a controller pairs from two latches with different ones; the argument is the latches from that
pair on. R127 and G6 do not say (log 22). -/
opaque Config.mixedSelect (pending : List (Nibble × Bool)) : Bool

/-- The default value of every parameter (the table of R6; log 18). The number of requesters is OPEN there; 2 is the model's choice
(log 5). -/
def Config.default : Config where
  addrPresetA := 0x27
  addrPresetB := 0x3F
  rowOff0 := 0x00
  rowOff1 := 0x40
  rowOff2 := 0x14
  rowOff3 := 0x54
  rowCount := 2
  columnCount := 16
  powerOnDelay := 15000
  initDelay1 := 4100
  initDelay2 := 100
  enableSettle := 38
  enablePulse := 1
  settleFloor := 38
  delayClear := 1640
  delayHome := 1640
  delayDisplayControl := 4100
  delayEntryMode := 4100
  delayShift := 0
  delayFunctionSet := 0
  delaySetDdram := 0
  delayData := 0
  maxWait := 10000
  stringCap := 256
  stringTerminator := 0x00
  rsBit := 0x01
  rwBit := 0x02
  enBit := 0x04
  backlightBit := 0x08
  cmdClear := 0x01
  cmdHome := 0x02
  cmdEntryMode := 0x04
  cmdDisplayControl := 0x08
  cmdShift := 0x10
  cmdFunctionSet := 0x20
  cmdSetCgram := 0x40
  cmdSetDdram := 0x80
  emIncrement := 0x02
  emShift := 0x01
  dcDisplay := 0x04
  dcCursor := 0x02
  dcBlink := 0x01
  shDisplay := 0x08
  shRight := 0x04
  fs8Bit := 0x10
  fs2Line := 0x08
  fs5x10 := 0x04
  i2cSpeed := Config.openSpeed
  i2cTimeoutMs := Config.openTimeoutMs
  requesterCount := 2
  codeSuccess := 0
  codeAllocationFailure := 1
  codeBackendOpenFailure := 2
  codeTransferFailure := 3
  codeInitSequenceFailure := 4
  codeInvalidArgument := 5

/-- The Row Offset Table `ROWOFF` (R28), indexed by the physical row number 0 to 3; a legal `rowCount` (at most 4) keeps every
index in it. -/
def Config.rowOffset (c : Config) : Nat → Byte
  | 0 => c.rowOff0
  | 1 => c.rowOff1
  | 2 => c.rowOff2
  | _ => c.rowOff3

/-- The largest of `ROWOFF[0 .. ROW_COUNT-1]` as a number (the constraint on COLUMN_COUNT in R6). -/
def Config.maxRowOffset (c : Config) : Nat :=
  (List.range c.rowCount).foldl (fun m i => max m (c.rowOffset i).toNat) 0

/-- A single bit inside 0x0F (R6, the control-line bits). -/
def Config.isLineBit (b : Byte) : Bool := b == 0x01 || b == 0x02 || b == 0x04 || b == 0x08

/-- R6: RS, RW, EN and the backlight are four distinct single bits inside 0x0F. -/
def Config.legalLines (c : Config) : Bool :=
  Config.isLineBit c.rsBit && Config.isLineBit c.rwBit && Config.isLineBit c.enBit && Config.isLineBit c.backlightBit &&
    c.rsBit != c.rwBit && c.rsBit != c.enBit && c.rsBit != c.backlightBit &&
    c.rwBit != c.enBit && c.rwBit != c.backlightBit && c.enBit != c.backlightBit

/-- R7: `max(SETTLE_FLOOR_US, d) <= MAX_WAIT_US` for every command-specific delay `d`. -/
def Config.legalDelays (c : Config) : Bool :=
  [c.delayClear, c.delayHome, c.delayDisplayControl, c.delayEntryMode, c.delayShift, c.delayFunctionSet, c.delaySetDdram,
    c.delayData].all fun d => decide ((umax c.settleFloor d).toNat ≤ c.maxWait.toNat)

/-- R6: `1 <= ROW_COUNT <= 4` and `COLUMN_COUNT - 1 + max(ROWOFF[0..ROW_COUNT-1]) <= 0x7F`. -/
def Config.legalGeometry (c : Config) : Bool :=
  decide (1 ≤ c.rowCount) && decide (c.rowCount ≤ 4) && decide (c.columnCount + c.maxRowOffset ≤ 0x80)

/-- R6: at least one requester; D5: "only distinctness of the six values matters" (log 19). -/
def Config.legalHost (c : Config) : Bool :=
  decide (1 ≤ c.requesterCount) &&
    decide [c.codeSuccess, c.codeAllocationFailure, c.codeBackendOpenFailure, c.codeTransferFailure, c.codeInitSequenceFailure,
      c.codeInvalidArgument].Nodup

/-- A legal configuration (R6, R7); any other is refused (U22; log 19). -/
def Config.legal (c : Config) : Bool := c.legalLines && c.legalDelays && c.legalGeometry && c.legalHost

/-- A single bit of a byte: an "opcode bit" or a flag bit (R6). -/
def Config.isBit (b : Byte) : Bool :=
  b == 0x01 || b == 0x02 || b == 0x04 || b == 0x08 || b == 0x10 || b == 0x20 || b == 0x40 || b == 0x80

/-- Every opcode and every flag of format K is a single bit ("opcode bit of each member", "flag bits OR-ed into the opcodes", R6). -/
def Config.bitOpcodes (c : Config) : Bool :=
  [c.cmdClear, c.cmdHome, c.cmdEntryMode, c.cmdDisplayControl, c.cmdShift, c.cmdFunctionSet, c.cmdSetCgram, c.cmdSetDdram,
    c.emIncrement, c.emShift, c.dcDisplay, c.dcCursor, c.dcBlink, c.shDisplay, c.shRight, c.fs8Bit, c.fs2Line, c.fs5x10].all
    Config.isBit

/-- Opcodes and flags of format K have the patterns of R74, R75 and spec/opcode_table.json, which are the defaults of R6. -/
def Config.tablePatterns (c : Config) : Bool :=
  c.cmdClear == 0x01 && c.cmdHome == 0x02 && c.cmdEntryMode == 0x04 && c.cmdDisplayControl == 0x08 && c.cmdShift == 0x10 &&
    c.cmdFunctionSet == 0x20 && c.cmdSetCgram == 0x40 && c.cmdSetDdram == 0x80 && c.emIncrement == 0x02 && c.emShift == 0x01 &&
    c.dcDisplay == 0x04 && c.dcCursor == 0x02 && c.dcBlink == 0x01 && c.shDisplay == 0x08 && c.shRight == 0x04 &&
    c.fs8Bit == 0x10 && c.fs2Line == 0x08 && c.fs5x10 == 0x04

end Sys2Proof
end

