-- ==== Sys2Proof/Syntax.lean ====
section
/-! DEFINITION. The instructions: one constructor for each row of spec/opcode_table.json. -/

namespace Sys2Proof

/-- The eleven host commands (format H, spec/30_encoding.md R76), the eight members of the Command Opcode Set (format K, R74) and
the wire byte (format W, R71). Only the first eleven can stand on the command port; the other nine are the encoder's and the
transport's own operations (R83), which a host command expands into. -/
inductive Instr where
  /-- INIT address, backlightOn (R161). -/
  | init (address : Byte) (backlightOn : Bool)
  /-- DEINIT (R162). -/
  | deinit
  /-- CLEAR (R163). -/
  | clear
  /-- HOME (R164). -/
  | home
  /-- SETDISPLAY displayOn, cursorOn, blinkOn (R165). -/
  | setDisplay (displayOn cursorOn blinkOn : Bool)
  /-- SETENTRYMODE leftToRight, autoScroll (R166). -/
  | setEntryMode (leftToRight autoScroll : Bool)
  /-- SETCURSOR row, column (R167). -/
  | setCursor (row column : Byte)
  /-- SCROLL target, direction (R168): target true is the display, direction true is right. -/
  | scroll (target direction : Bool)
  /-- SETBACKLIGHT enable (R169). -/
  | setBacklight (enable : Bool)
  /-- WRITECHAR c (R170). -/
  | writeChar (c : Byte)
  /-- WRITESTRING saddr (R171). -/
  | writeString (saddr : BitVec 16)
  /-- K.CLEAR, `0000 0001`. -/
  | kClear
  /-- K.HOME, `0000 001x`. -/
  | kHome (x : Bool)
  /-- K.ENTRY_MODE_SET, `0000 01 I S`. -/
  | kEntryModeSet (i s : Bool)
  /-- K.DISPLAY_CONTROL, `0000 1 D C B`. -/
  | kDisplayControl (d c b : Bool)
  /-- K.SHIFT, `0001 T R x x`. -/
  | kShift (t r : Bool) (x : BitVec 2)
  /-- K.FUNCTION_SET, `001 L N F x x`. -/
  | kFunctionSet (l n f : Bool) (x : BitVec 2)
  /-- K.SET_CGRAM_ADDR, `01 aaaaaa`. -/
  | kSetCgramAddr (a : BitVec 6)
  /-- K.SET_DDRAM_ADDR, `1 aaaaaaa`. -/
  | kSetDdramAddr (a : BitVec 7)
  /-- W.WIRE_BYTE, `vvvv b e 0 r`: value nibble, backlight, enable, read/write held 0, register select. -/
  | wireByte (value : Nibble) (backlight enable rs : Bool)
  deriving DecidableEq, Repr

/-- Whether the instruction is one of the eleven host commands, which alone have a host encoding (R76, R83, R201). -/
def Instr.isHost : Instr → Bool
  | .init _ _ => true
  | .deinit => true
  | .clear => true
  | .home => true
  | .setDisplay _ _ _ => true
  | .setEntryMode _ _ => true
  | .setCursor _ _ => true
  | .scroll _ _ => true
  | .setBacklight _ => true
  | .writeChar _ => true
  | .writeString _ => true
  | .kClear => false
  | .kHome _ => false
  | .kEntryModeSet _ _ => false
  | .kDisplayControl _ _ _ => false
  | .kShift _ _ _ => false
  | .kFunctionSet _ _ _ _ => false
  | .kSetCgramAddr _ => false
  | .kSetDdramAddr _ => false
  | .wireByte _ _ _ _ => false

/-- INIT and DEINIT, the commands that construct and free the context (R33). -/
def Instr.lifecycle : Instr → Bool
  | .init _ _ => true
  | .deinit => true
  | _ => false

/-- SETBACKLIGHT, the only command that changes the backlight flag of a Ready context (R33, R169). -/
def Instr.setsBacklight : Instr → Bool
  | .setBacklight _ => true
  | _ => false

end Sys2Proof
end

