-- ==== Sys2Proof/WellFormed.lean ====
section
/-! DEFINITION. Well-formed instructions. The operand types already hold exactly the values the fields of the encodings can hold;
what is left to check are the command bytes the block never emits (spec/30_encoding.md R80, spec/93 U23). -/

namespace Sys2Proof

/-- R80 (b): set-CGRAM-addr is never emitted. R80 (c): function-set is emitted with one value only, `CMD_FUNCTION_SET | FS_2LINE`
(L = 0, N = 1, F = 0, R75). Every other operand value is one the block accepts or emits; an "x" bit is always sent as 0 whatever
the instruction holds (R74). -/
def Instr.wellFormed : Instr → Bool
  | .init _ _ => true
  | .deinit => true
  | .clear => true
  | .home => true
  | .setDisplay _ _ _ => true
  | .setEntryMode _ _ => true
  | .setCursor _ _ => true
  | .scroll _ _ => true
  | .setBacklight _ => true
  | .writeChar _ => true
  | .writeString _ => true
  | .kClear => true
  | .kHome _ => true
  | .kEntryModeSet _ _ => true
  | .kDisplayControl _ _ _ => true
  | .kShift _ _ _ => true
  | .kFunctionSet l n f _ => !l && n && !f
  | .kSetCgramAddr _ => false
  | .kSetDdramAddr _ => true
  | .wireByte _ _ _ _ => true

end Sys2Proof
end

