-- ==== Sys2Proof/Decode.lean ====
section
/-! DEFINITION. The decoder, total on any word, rejecting by name, and after it the encoder (spec/30_encoding.md R70 to R80,
spec/opcode_table.json). -/

namespace Sys2Proof

/-- A word where it stands: a host command word on the command port (format H), a command byte at the encoder (format K), a wire
byte at the transport (format W). Which format a word has is fixed by where it stands, not by its bits (R70). -/
inductive Word where
  | host (w : BitVec 24)
  | command (k : Byte)
  | wire (v : Byte)
  deriving DecidableEq, Repr

/-- Why a word is no instruction. All are refused by the machine (R79, R80); that is safe. -/
inductive DecodeError where
  /-- `op` 0x0B to 0xFF (R79). -/
  | reservedOp
  /-- An operand bit the command does not use is not 0 (R79). -/
  | mustBeZero
  /-- The command byte 0x00 has no opcode bit set (R80); nor has one whose highest set bit is no configured opcode. -/
  | noOpcodeBit
  /-- The read/write line is set in a wire byte (R80). -/
  | rwBitSet
  deriving DecidableEq, Repr

/-- `.ok i` where the must-be-zero bits are zero (R79). -/
def Instr.ifZero (zeros : Bool) (i : Instr) : Except DecodeError Instr := if zeros then .ok i else .error .mustBeZero

/-- The host command with operation `op` and operand bytes `a`, `b` (the table of R76, operand assembly R77). -/
def decodeOp (op a b : Byte) : Except DecodeError Instr :=
  match op.toNat with
  | 0 => Instr.ifZero (b.extractLsb' 1 7 == 0) (.init a (b.getLsbD 0))
  | 1 => Instr.ifZero (a == 0 && b == 0) .deinit
  | 2 => Instr.ifZero (a == 0 && b == 0) .clear
  | 3 => Instr.ifZero (a == 0 && b == 0) .home
  | 4 => Instr.ifZero (a == 0 && b.extractLsb' 3 5 == 0) (.setDisplay (b.getLsbD 2) (b.getLsbD 1) (b.getLsbD 0))
  | 5 => Instr.ifZero (a == 0 && b.extractLsb' 2 6 == 0) (.setEntryMode (b.getLsbD 1) (b.getLsbD 0))
  | 6 => .ok (.setCursor a b)
  | 7 => Instr.ifZero (a == 0 && b.extractLsb' 2 6 == 0) (.scroll (b.getLsbD 1) (b.getLsbD 0))
  | 8 => Instr.ifZero (a == 0 && b.extractLsb' 1 7 == 0) (.setBacklight (b.getLsbD 0))
  | 9 => Instr.ifZero (a == 0) (.writeChar b)
  | 10 => .ok (.writeString (a ++ b))
  | _ => .error .reservedOp

/-- A host command word, `op[23:16] ++ a[15:8] ++ b[7:0]` (R76). -/
def decodeHost (w : BitVec 24) : Except DecodeError Instr :=
  decodeOp (w.extractLsb' 16 8) (w.extractLsb' 8 8) (w.extractLsb' 0 8)

/-- The highest set bit of a byte; 0 where none is set. -/
def topBit (k : Byte) : Byte :=
  if k.getLsbD 7 then 0x80
  else if k.getLsbD 6 then 0x40
  else if k.getLsbD 5 then 0x20
  else if k.getLsbD 4 then 0x10
  else if k.getLsbD 3 then 0x08
  else if k.getLsbD 2 then 0x04
  else if k.getLsbD 1 then 0x02
  else if k.getLsbD 0 then 0x01
  else 0

/-- Whether a line or flag bit is set in a byte. -/
def hasBit (b mask : Byte) : Bool := b &&& mask != 0

/-- A flag bit when enabled, 0 otherwise (R75: "OR-ing enabled flag bits"). -/
def flag (enabled : Bool) (mask : Byte) : Byte := if enabled then mask else 0

/-- A command byte under the configured opcodes and flags: "each command is identified by its highest set bit, and the bits below it
are flags or an address" (R74, R75). The spec gives patterns for the default parameters only; that under others the highest set bit
is compared with the configured opcodes in the order of this list, and that an ignored "x" bit is read at its default place, is the
model's choice (log 21, DESIGN CHOICE). -/
def decodeCommand (c : Config) (k : Byte) : Except DecodeError Instr :=
  if topBit k = 0 then .error .noOpcodeBit
  else if topBit k = c.cmdSetDdram then .ok (.kSetDdramAddr (k.extractLsb' 0 7))
  else if topBit k = c.cmdSetCgram then .ok (.kSetCgramAddr (k.extractLsb' 0 6))
  else if topBit k = c.cmdFunctionSet then
    .ok (.kFunctionSet (hasBit k c.fs8Bit) (hasBit k c.fs2Line) (hasBit k c.fs5x10) (k.extractLsb' 0 2))
  else if topBit k = c.cmdShift then .ok (.kShift (hasBit k c.shDisplay) (hasBit k c.shRight) (k.extractLsb' 0 2))
  else if topBit k = c.cmdDisplayControl then
    .ok (.kDisplayControl (hasBit k c.dcDisplay) (hasBit k c.dcCursor) (hasBit k c.dcBlink))
  else if topBit k = c.cmdEntryMode then .ok (.kEntryModeSet (hasBit k c.emIncrement) (hasBit k c.emShift))
  else if topBit k = c.cmdHome then .ok (.kHome (k.getLsbD 0))
  else if topBit k = c.cmdClear then .ok .kClear
  else .error .noOpcodeBit

/-- A wire byte: value nibble in bits 7:4, the four lines at their configured positions, read/write always 0 (R71, R80). -/
def decodeWire (c : Config) (v : Byte) : Except DecodeError Instr :=
  if hasBit v c.rwBit then .error .rwBitSet
  else .ok (.wireByte (v.extractLsb' 4 4) (hasBit v c.backlightBit) (hasBit v c.enBit) (hasBit v c.rsBit))

/-- The decoder of a machine with configuration `c`. The host command word has no parameters (R76). -/
def decode (c : Config) : Word → Except DecodeError Instr
  | .host w => decodeHost w
  | .command k => decodeCommand c k
  | .wire v => decodeWire c v

/-- The word that stands where an instruction of `nbits` bits is fetched, for the bits `w` numbered as spec/opcode_table.json
numbers them. 24 bits are a host command word. Of the two 8-bit formats, every byte but 0x00 is a command byte (its highest set
bit names the command, R74); 0x00 is no command byte (R80) and is the wire byte 0x00 (log 14). -/
def tableWord (nbits w : Nat) : Option Word :=
  if nbits = 24 then some (.host (BitVec.ofNat 24 w))
  else if nbits = 8 then
    if BitVec.ofNat 8 w = 0 then some (.wire 0) else some (.command (BitVec.ofNat 8 w))
  else none

/-- `.ok` as an option. -/
def okOf (d : Except DecodeError Instr) : Option Instr :=
  match d with
  | .ok i => some i
  | .error _ => none

/-- The instruction the decoder reads from the bits `w` of a row of spec/opcode_table.json, bit 0 the least significant. The table's
patterns are those of the default parameters (R71, R74). -/
def decodeTableWord (nbits w : Nat) : Option Instr :=
  match tableWord nbits w with
  | some x => okOf (decode Config.default x)
  | none => none

/-! ### The encoder, from the same tables (R71, R74, R76). -/

/-- One bit from a bool (R9: 1 is true). -/
def bit (x : Bool) : BitVec 1 := BitVec.ofBool x

/-- The host command word with operation `op` and operand bytes `a`, `b` (R76). -/
def hostWord (op a b : Byte) : Word := .host (op ++ a ++ b)

/-- The word of an instruction in a machine with configuration `c`; an ignored "x" bit stands at its default place (log 21). -/
def encode (c : Config) : Instr → Word
  | .init address backlightOn => hostWord 0x00 address (0#7 ++ bit backlightOn)
  | .deinit => hostWord 0x01 0 0
  | .clear => hostWord 0x02 0 0
  | .home => hostWord 0x03 0 0
  | .setDisplay d k b => hostWord 0x04 0 (0#5 ++ bit d ++ bit k ++ bit b)
  | .setEntryMode l a => hostWord 0x05 0 (0#6 ++ bit l ++ bit a)
  | .setCursor row column => hostWord 0x06 row column
  | .scroll t d => hostWord 0x07 0 (0#6 ++ bit t ++ bit d)
  | .setBacklight e => hostWord 0x08 0 (0#7 ++ bit e)
  | .writeChar ch => hostWord 0x09 0 ch
  | .writeString saddr => hostWord 0x0A (saddr.extractLsb' 8 8) (saddr.extractLsb' 0 8)
  | .kClear => .command c.cmdClear
  | .kHome x => .command (c.cmdHome ||| flag x 0x01)
  | .kEntryModeSet i s => .command (c.cmdEntryMode ||| flag i c.emIncrement ||| flag s c.emShift)
  | .kDisplayControl d k b => .command (c.cmdDisplayControl ||| flag d c.dcDisplay ||| flag k c.dcCursor ||| flag b c.dcBlink)
  | .kShift t r x => .command (c.cmdShift ||| flag t c.shDisplay ||| flag r c.shRight ||| x.zeroExtend 8)
  | .kFunctionSet l n f x =>
    .command (c.cmdFunctionSet ||| flag l c.fs8Bit ||| flag n c.fs2Line ||| flag f c.fs5x10 ||| x.zeroExtend 8)
  | .kSetCgramAddr a => .command (c.cmdSetCgram ||| a.zeroExtend 8)
  | .kSetDdramAddr a => .command (c.cmdSetDdram ||| a.zeroExtend 8)
  | .wireByte v b e r =>
    .wire ((v.zeroExtend 8 <<< 4) ||| flag b c.backlightBit ||| flag e c.enBit ||| flag r c.rsBit)

/-- The 24 bits of a host word; a command or wire byte in the low bits (used for the `Cmd` event of R199 only on host words). -/
def Word.bits24 : Word → BitVec 24
  | .host w => w
  | .command k => k.zeroExtend 24
  | .wire v => v.zeroExtend 24

end Sys2Proof
end

