-- ==== Sys2Proof/Machine/State.lean ====
section
/-! DEFINITION. The state of the machine as plain data, the reasons a step can stop, and the state right after reset
(spec/10_state.md, spec/70_reset_and_hazards.md R250). -/

namespace Sys2Proof.Machine

/-- Why the machine stops: a port contract is broken or no agent has a step. None is raised in a state the block reaches by its own
rules (R268); all are safe (log 17). -/
inductive Fault where
  /-- The requester is at `Acquire` while another owns the lock (R25: it "has a step only when lockOwner = none"), or every
  requester that has something to do is in that position (U27, stuck). Raised by a command that is resumed and by step. -/
  | waitsForLock
  /-- `Acquire` or a raw write of a byte where no lock exists (R25). Raised by a command that is resumed. -/
  | noLock
  /-- `Release(r)` where `lockOwner` is not `r` (R25). Raised by a command that is resumed. -/
  | lockNotHeld
  /-- A raw write with the transport closed (R24: every `TWrite` requires `transportOpen = 1`). Raised by a command that is
  resumed. -/
  | transportClosed
  deriving DecidableEq, Repr

/-- Why an instruction is refused: the spec gives it no meaning there (spec/93 Part 1, "refuse": no step, a refusal mark on the
run). All are safe. -/
inductive Refusal where
  /-- An instruction without a meaning yet; raised by exec's arms only. -/
  | notModelled (mnemonic : String)
  /-- A reserved or ill-formed word (R79, R80, U5). Raised by step. -/
  | invalidWord (why : DecodeError)
  /-- A command other than INIT while `life` is not Ready (R160, U1, U2). Raised by every command but INIT. -/
  | notReady
  /-- INIT while `life` is not Absent (R160, R161, U3). Raised by INIT. -/
  | notAbsent
  /-- DEINIT while another requester has a command in progress or the lock is held (R162, U4). Raised by DEINIT. -/
  | deinitWhileBusy
  /-- A command while another requester's DEINIT is in progress: a use of a handle that is being freed (R162, U4). Raised by every
  command but INIT. -/
  | contextBeingFreed
  /-- The configuration breaks the constraints of R6 or R7 (U22). Raised by every command. -/
  | illegalConfiguration
  /-- A command byte the block never emits: set-CGRAM-addr, function-set other than 0x28 (R80, U23). Raised by K.SET_CGRAM_ADDR
  and K.FUNCTION_SET. -/
  | neverEmitted
  /-- The requester named by `cur` does not exist (R8: requesters are `0 .. N_REQ-1`). Raised by every command. -/
  | noSuchRequester
  /-- The requester has another command in progress (R160: one command at a time). Raised by every command. -/
  | requesterBusy
  deriving DecidableEq, Repr

/-- The lifecycle state of the context (R26). -/
inductive Life where
  | absent
  | constructing
  | ready
  deriving DecidableEq, Repr

/-- The six status values (R220). -/
inductive Status where
  | success
  | allocationFailure
  | backendOpenFailure
  | transferFailure
  | initSequenceFailure
  | invalidArgument
  deriving DecidableEq, Repr

/-- The Display Context, the block's register file (R20 to R26). -/
structure Context where
  life : Life
  address : Byte
  backlightOn : Bool
  nextReadyTick : Tick
  transportOpen : Bool
  lockExists : Bool
  lockOwner : Option Nat
  deriving DecidableEq, Repr

/-- One line of the pseudocode of spec/40 to spec/43: where a sequencer position can stand (R27). A line that touches a port is
one port event. -/
inductive Line where
  /-- I1: allocation of the context. -/
  | alloc
  /-- I2: "fills defaults". -/
  | fillDefaults (address : Byte) (backlightOn : Bool)
  /-- I3: `TOpen`. -/
  | openTransport
  /-- I4: `LCreate`. -/
  | createLock
  /-- `Delay(n)`. -/
  | delay (n : Tick)
  /-- B2, and `c0` of RESETSEQ: the control nibble for command (false) or data (true). -/
  | control (isData : Bool)
  /-- One raw write of a nibble transfer: value nibble `n`, enable bit set or cleared, inside a byte write or bare. -/
  | nibbleWrite (n : Nibble) (enable inByte : Bool)
  /-- B0, L1: `Acquire(r)`. -/
  | acquire
  /-- WAIT, first line: `t <- Now()`. -/
  | readClock
  /-- WAIT, the rest: at most one `Delay`. -/
  | waitReady
  /-- RECORD, first line: `t2 <- Now()`. -/
  | readClockAgain
  /-- RECORD, second line: the new `nextReadyTick`. -/
  | recordTick (d : Tick)
  /-- B7, BF2, L3: `Release(r)`. -/
  | release
  /-- BF1: INVALIDATE. -/
  | invalidate
  /-- L2: `ctx.backlightOn <- enable`. -/
  | storeBacklight (enable : Bool)
  /-- One pass of WRITESTRING's loop head: `MemRead((saddr + i) mod 2^16, 1)` and the terminator test. -/
  | readString (saddr : BitVec 16) (i : Nat)
  /-- X1 and INIT's unwinding: `TClose()`. -/
  | closeTransport
  /-- X2 and INIT's unwinding: `LDestroy()`. -/
  | destroyLock
  /-- I6: `ctx.life <- Ready; return Success`. -/
  | becomeReady
  /-- X3 and the ends of INIT's unwinding: free the context, `ctx.life <- Absent`, return the status. -/
  | freeContext (result : Status)
  /-- `return s`. -/
  | ret (result : Status)
  /-- W.WIRE_BYTE: `TWrite(v)` on its own. -/
  | rawWrite (v : Byte)
  deriving DecidableEq, Repr

/-- The sequencer position of a requester that has a command in progress (R27): the command, the lines still to run (the line
reached is the first), the control nibble, and the two clock readings. -/
structure Progress where
  cmd : Instr
  todo : List Line
  ctl : Byte
  t : Tick
  t2 : Tick
  deriving DecidableEq, Repr

/-- A host command word the host presents on a command port with its side operand `backendConfig` (R76, R199 `Cmd(r, word, cfg)`).
Nothing but a 24-bit host command word can stand there (R83, R201). -/
structure PortWord where
  word : BitVec 24
  side : BackendConfig
  deriving DecidableEq, Repr

/-- One requester (R27): the words presented on its command port and not yet taken, oldest first; the `backendConfig` standing on
the port for the command taken last; its sequencer position, `none` being `idle`. -/
structure Requester where
  port : List PortWord
  side : BackendConfig
  seq : Option Progress
  deriving DecidableEq, Repr

/-- The event alphabet of R199. -/
inductive Event where
  | cmd (r : Nat) (word : BitVec 24) (side : BackendConfig)
  | status (r : Nat) (code : Byte)
  | alloc (ok : Bool)
  | tOpen (address : BitVec 7) (speed timeoutMs : Nat) (side : BackendConfig) (ok : Bool)
  | tClose
  | tWrite (v : Byte) (ok : Bool)
  | lCreate (ok : Bool)
  | lDestroy
  | acquire (r : Nat)
  | release (r : Nat)
  | now (t : Tick)
  | delay (n : Tick)
  | memRead (addr : BitVec 16) (value : Byte)
  deriving DecidableEq, Repr

/-- An event in the history with the clock values when it started and when it completed (R199: "the `TWrite` events and the clock
values around them"). -/
structure Stamped where
  start : Nat
  finish : Nat
  event : Event
  deriving DecidableEq, Repr

/-- A word of the block's own two byte formats: a command byte at the encoder, a wire byte at the transport (R70). They "have no host
encoding and cannot be issued from the command port" (R83). -/
inductive InnerWord where
  | command (k : Byte)
  | wire (v : Byte)
  deriving DecidableEq, Repr

/-- How far `exec` runs a command: one line, which touches at most one port (R8, R10, D2), or the whole command where no other agent
has anything to do. `step` always runs at `line`; `command` only serves to state what an instruction does from its arrival to its
status in one equation (log 3). -/
inductive Grain where
  | line
  | command
  deriving DecidableEq, Repr

/-- A move of the agents that is laid down beforehand (R8: "between any two steps of one requester any other agent may step"). -/
inductive Move where
  /-- Requester `r` moves: one line of its command in progress, or it takes the next word from its port. -/
  | run (r : Nat)
  /-- The host idles for `n` microseconds (R200). -/
  | idle (n : Nat)
  /-- The host changes a byte of string memory (R63). -/
  | store (addr : BitVec 16) (value : Byte)
  /-- The host presents a word on the command port of requester `r` (R200). -/
  | present (r : Nat) (w : PortWord)
  /-- Not the host's: the encoder or the transport side of requester `r`, which is idle, performs one internal operation by itself.
  It is how a row of format K or W is run as an instruction of its own (R83; log 15). -/
  | inner (r : Nat) (w : InnerWord)
  deriving DecidableEq, Repr

/-- The environment's side of the ports (R32), the model's own fields: the Clock, what the Transport, the Lock and the allocator are
going to answer, how long events take, which agent moves next. A list that has run out answers with a free value of Config applied
to `draws` (logs 9, 10). `grain` says how far `exec` runs a command (log 3). -/
structure Env where
  clock : Nat
  elapsed : List Nat
  allocs : List Bool
  opens : List Bool
  creates : List Bool
  writes : List WriteAnswer
  agenda : List Move
  draws : Nat
  grain : Grain
  deriving DecidableEq, Repr

/-- The whole machine. `cfg` never changes; `cur` is the requester `r` on whose behalf the step acts (R10); `mem` is host string
memory as (address, byte) pairs in canonical form (R51); `expander` is the expander's output register (R55). -/
structure State where
  cfg : Config
  ctx : Context
  cur : Nat
  requesters : List Requester
  mem : List Host.Cell
  expander : Byte
  env : Env
  history : List Stamped
  deriving DecidableEq, Repr

/-- The context when none exists (R34, R250). The three fields that "have no value" hold 0 (log 1, DESIGN CHOICE, unsafe). -/
def Context.absent : Context where
  life := .absent
  address := 0
  backlightOn := false
  nextReadyTick := 0
  transportOpen := false
  lockExists := false
  lockOwner := Option.none

/-- A requester with nothing to do (R27: `idle`); what stands as `backendConfig` before any command is log 4. -/
def Requester.fresh : Requester where
  port := []
  side := .devicePath ""
  seq := Option.none

/-- The environment at power-on: nothing is laid down, so every answer is a free value (logs 8, 9, 10). -/
def Env.powerOn : Env where
  clock := Config.clockPowerOn
  elapsed := []
  allocs := []
  opens := []
  creates := []
  writes := []
  agenda := []
  draws := 0
  grain := .line

/-- The machine right after power-on, before any INIT (R250): no context, every requester idle, no port event yet. Two requesters
is log 5. -/
def State.reset : State where
  cfg := Config.default
  ctx := Context.absent
  cur := 0
  requesters := List.replicate Config.default.requesterCount Requester.fresh
  mem := []
  expander := Config.expanderPowerOn
  env := Env.powerOn
  history := []

end Sys2Proof.Machine
end

