-- ==== Sys2Proof/Machine/Flags.lean ====
section
/-! DEFINITION. The block has no status flags (spec/10_state.md R30). The only flag computations are the flag bits OR-ed into the
opcodes of format K (spec/30_encoding.md R74, R75), the numeric status codes (R220), and the delay table (R144). -/

namespace Sys2Proof.Machine

/-- entry-mode-set (R166). -/
def entryModeByte (c : Config) (leftToRight autoScroll : Bool) : Byte :=
  c.cmdEntryMode ||| flag leftToRight c.emIncrement ||| flag autoScroll c.emShift

/-- display-control (R165): "zero inputs are still valid (display fully off)". -/
def displayControlByte (c : Config) (displayOn cursorOn blinkOn : Bool) : Byte :=
  c.cmdDisplayControl ||| flag displayOn c.dcDisplay ||| flag cursorOn c.dcCursor ||| flag blinkOn c.dcBlink

/-- cursor/display-shift (R168); bits 1:0 are always 0. -/
def shiftByte (c : Config) (target direction : Bool) : Byte :=
  c.cmdShift ||| flag target c.shDisplay ||| flag direction c.shRight

/-- function-set (R75): L is the 8-bit flag, N the 2-line flag, F the 5x10 flag. -/
def functionSetByte (c : Config) (l n f : Bool) : Byte :=
  c.cmdFunctionSet ||| flag l c.fs8Bit ||| flag n c.fs2Line ||| flag f c.fs5x10

/-- set-DDRAM-addr: the opcode and the address combined by OR (R167, D20). -/
def setDdramByte (c : Config) (address : Byte) : Byte := c.cmdSetDdram ||| address

/-- The numeric code of a status, a parameter (R6, R220, D5). -/
def Status.code (c : Config) : Status → Byte
  | .success => c.codeSuccess
  | .allocationFailure => c.codeAllocationFailure
  | .backendOpenFailure => c.codeBackendOpenFailure
  | .transferFailure => c.codeTransferFailure
  | .initSequenceFailure => c.codeInitSequenceFailure
  | .invalidArgument => c.codeInvalidArgument

end Sys2Proof.Machine
end

