-- ==== Sys2Proof/Machine/Operands.lean ====
section
/-! DEFINITION. Operand forms: control nibble and wire bytes (spec/30_encoding.md R71 to R73), the DDRAM address (R52, R167), the
bus address (R54, R81), the string address (R51). -/

namespace Sys2Proof.Machine

/-- `CTRL(bl, isData)`, the control nibble without the enable bit (R72, R121). -/
def controlNibble (c : Config) (backlight isData : Bool) : Byte :=
  (if backlight then c.backlightBit else 0) ||| (if isData then c.rsBit else 0)

/-- `HI(b)`: the upper nibble already in wire position (R73). -/
def upperInPlace (b : Byte) : Byte := b &&& 0xF0

/-- `LO(b)`: the lower nibble moved to wire position (R73). -/
def lowerInPlace (b : Byte) : Byte := (b <<< 4) &&& 0xF0

/-- `b[7:4]` (R123 line B3). -/
def upperNibble (b : Byte) : Nibble := b.extractLsb' 4 4

/-- `b[3:0]` (R123 line B5). -/
def lowerNibble (b : Byte) : Nibble := b.extractLsb' 0 4

/-- The wire position of a value nibble, `(n << 4) & 0xF0` (R73). -/
def nibbleInPlace (n : Nibble) : Byte := (n.zeroExtend 8 <<< 4) &&& 0xF0

/-- The wire byte of one raw write of `NIBBLE(n, c)` (R122): `v | EN_BIT` when the enable line is set, `v` when it is cleared. -/
def nibbleWire (c : Config) (n : Nibble) (ctl : Byte) (enable : Bool) : Byte :=
  (nibbleInPlace n ||| ctl) ||| (if enable then c.enBit else 0)

/-- The wire byte of W.WIRE_BYTE: the four lines at their configured places, read/write never set (R71, R80). -/
def wireByteOf (c : Config) (value : Nibble) (backlight enable rs : Bool) : Byte :=
  nibbleWire c value (controlNibble c backlight rs) enable

/-- The DDRAM address `column + ROWOFF[row]`, an 8-bit sum (R52, R167). -/
def ddramAddress (c : Config) (row column : Byte) : Byte := column + c.rowOffset row.toNat

/-- Whether SETCURSOR accepts the position: `row < ROW_COUNT` and `column < COLUMN_COUNT`, unsigned (R77, R167). -/
def cursorInRange (c : Config) (row column : Byte) : Bool :=
  decide (row.toNat < c.rowCount) && decide (column.toNat < c.columnCount)

/-- The 7-bit slave address that reaches the bus, `address[6:0]` (R21, R54). -/
def busAddress (address : Byte) : BitVec 7 := address.extractLsb' 0 7

/-- Format A, the first byte of every I2C transaction: `address[6:0] ++ 0` (R81). -/
def i2cAddressByte (address : Byte) : Byte := busAddress address ++ 0#1

/-- The address of string byte `i`: `(saddr + i) mod 2^16` (R51, R171). -/
def stringAddress (saddr : BitVec 16) (i : Nat) : BitVec 16 := saddr + BitVec.ofNat 16 i

end Sys2Proof.Machine
end

