-- ==== Sys2Proof/Machine/Ops.lean ====
section
/-! DEFINITION. The named operations: host string memory, the environment's answers, the port events, the context's registers, the
lines of the pseudocode (INIT, RESETSEQ, NIBBLE, BYTE, WAIT, RECORD, INVALIDATE), raising and returning a failure, and running a
command. Each line is the text of spec/40 to spec/43 as one function of the state. -/

namespace Sys2Proof.Machine

/-! ### Host string memory (R51): byte cells at 16-bit addresses, kept as a list in canonical form. -/

/-- What an unlisted address reads as (log 2, DESIGN CHOICE, unsafe). -/
def Memory.blank : Byte := 0x00

/-- `MemRead` as a function of the memory. -/
def Memory.read : List Host.Cell → Nat → Byte
  | [], _ => Memory.blank
  | (a, v) :: m, x => if a = x then v else Memory.read m x

/-- A byte put at the head of a canonical memory, unless it is what an unlisted address reads as. -/
def Memory.push (x : Nat) (v : Byte) (m : List Host.Cell) : List Host.Cell := if v = Memory.blank then m else (x, v) :: m

/-- A host store of one byte. -/
def Memory.write : List Host.Cell → Nat → Byte → List Host.Cell
  | [], x, v => Memory.push x v []
  | (a, w) :: m, x, v =>
    if x < a then Memory.push x v ((a, w) :: m)
    else if x = a then Memory.push x v m
    else (a, w) :: Memory.write m x v

/-- Canonical form from address `lo` on: addresses strictly rising and below 2^16, no entry equal to what an unlisted one reads. -/
def Memory.wfFrom (lo : Nat) : List Host.Cell → Bool
  | [] => true
  | (a, v) :: m => decide (lo ≤ a) && decide (a < 65536) && (v != Memory.blank) && Memory.wfFrom (a + 1) m

/-- The canonical form of a memory. -/
def Memory.wf (m : List Host.Cell) : Bool := Memory.wfFrom 0 m

/-! ### The environment's answers: the head of the script, or a free value when the script has run out (logs 8, 9). -/

/-- How long the next port event takes beyond what is requested (R194, R198: any value `>= 0`). -/
def Env.nextElapsed (e : Env) : Nat := e.elapsed.head?.getD (Config.freeElapsed e.draws)

/-- The time of one port event passes: at least `n`, plus what the event takes (R197, R198). -/
def Env.tick (n : Nat) (e : Env) : Env :=
  { e with clock := e.clock + n + e.nextElapsed, elapsed := e.elapsed.tail, draws := e.draws + 1 }

/-- Whether the next allocation succeeds (R221). -/
def Env.nextAlloc (e : Env) : Bool := e.allocs.head?.getD (Config.freeAlloc e.draws)

/-- The allocation's answer is used up. -/
def Env.popAlloc (e : Env) : Env := { e with allocs := e.allocs.tail }

/-- Whether the next `TOpen` succeeds (R191). -/
def Env.nextOpen (e : Env) : Bool := e.opens.head?.getD (Config.freeOpen e.draws)

/-- The answer of `TOpen` is used up. -/
def Env.popOpen (e : Env) : Env := { e with opens := e.opens.tail }

/-- Whether the next `LCreate` succeeds (R195). -/
def Env.nextCreate (e : Env) : Bool := e.creates.head?.getD (Config.freeCreate e.draws)

/-- The answer of `LCreate` is used up. -/
def Env.popCreate (e : Env) : Env := { e with creates := e.creates.tail }

/-- What the next `TWrite` answers (R193). -/
def Env.nextWrite (e : Env) : WriteAnswer := e.writes.head?.getD (Config.freeWrite e.draws)

/-- The answer of `TWrite` is used up. -/
def Env.popWrite (e : Env) : Env := { e with writes := e.writes.tail }

/-! ### The parts of the state. -/

/-- The state with another context. -/
def State.withCtx (c : Context) (s : State) : State := { s with ctx := c }

/-- The state with another environment. -/
def State.withEnv (e : Env) (s : State) : State := { s with env := e }

/-- The state with another host string memory. -/
def State.withMem (m : List Host.Cell) (s : State) : State := { s with mem := m }

/-- The state with another value on the expander's outputs. -/
def State.withExpander (v : Byte) (s : State) : State := { s with expander := v }

/-- The state acting on behalf of requester `r`. -/
def State.withCur (r : Nat) (s : State) : State := { s with cur := r }

/-- Requester `r`; a number that names none reads as an idle one. -/
def State.req (r : Nat) (s : State) : Requester := s.requesters[r]?.getD Requester.fresh

/-- The state with another requester `r` (none added where there is no such requester). -/
def State.withReq (r : Nat) (q : Requester) (s : State) : State := { s with requesters := s.requesters.set r q }

/-- The sequencer position of requester `r` is set (R27). -/
def State.withSeq (r : Nat) (p : Option Progress) (s : State) : State := s.withReq r { s.req r with seq := p }

/-- One port event: at least `n` microseconds pass and the event is recorded with its start and completion (R8, R199). -/
def State.port (n : Nat) (ev : Event) (s : State) : State :=
  { s with
    env := s.env.tick n
    history := s.history ++ [{ start := s.env.clock, finish := (s.env.tick n).clock, event := ev }] }

/-! ### The registers of the context (R21 to R26, R33). -/

/-- `ctx.life <- l` (R26). -/
def State.withLife (l : Life) (s : State) : State := s.withCtx { s.ctx with life := l }

/-- `ctx.address`, `ctx.backlightOn` from INIT's operands and `ctx.nextReadyTick <- 0`: "fills defaults" (R161 line I2, D14). -/
def State.withDefaults (address : Byte) (backlightOn : Bool) (s : State) : State :=
  s.withCtx { s.ctx with address := address, backlightOn := backlightOn, nextReadyTick := 0 }

/-- `ctx.backlightOn <- e` (R22). -/
def State.withBacklight (e : Bool) (s : State) : State := s.withCtx { s.ctx with backlightOn := e }

/-- `ctx.nextReadyTick <- t` (R23). -/
def State.withTick (t : Tick) (s : State) : State := s.withCtx { s.ctx with nextReadyTick := t }

/-- `ctx.transportOpen <- b` (R24). -/
def State.withTransport (b : Bool) (s : State) : State := s.withCtx { s.ctx with transportOpen := b }

/-- `ctx.lockOwner <- o` (R25). -/
def State.withOwner (o : Option Nat) (s : State) : State := s.withCtx { s.ctx with lockOwner := o }

/-- `ctx.lockExists <- b; ctx.lockOwner <- none` (R25, R161 lines I4, I5, R162 line X2). -/
def State.withLock (b : Bool) (s : State) : State := s.withCtx { s.ctx with lockExists := b, lockOwner := none }

/-! ### The port primitives (R10, spec/44_portability_interfaces.md). -/

/-- `Now()`: the clock value when the event completes, its low 64 bits (R197). -/
def State.nowValue (s : State) : Tick := BitVec.ofNat 64 (s.env.tick 0).clock

/-- `Now()` as an event. -/
def State.now (s : State) : State := s.port 0 (.now s.nowValue)

/-- `Delay(n)`: the clock is at least `n` later when it returns (R198). -/
def State.delay (n : Tick) (s : State) : State := s.port n.toNat (.delay n)

/-- The expander's outputs after a raw write of `v` (R55; a failed write may or may not have reached them, U7). -/
def outputsAfter (old v : Byte) : WriteAnswer → Byte
  | .ok => v
  | .failUnchanged => old
  | .failChanged => v

/-- `TWrite(v)`: one I2C transaction with one data byte (R193). Whether it answers `ok` is `s.env.nextWrite`. -/
def State.tWrite (v : Byte) (s : State) : State :=
  ((s.withEnv s.env.popWrite).port 0 (.tWrite v s.env.nextWrite.isOk)).withExpander
    (outputsAfter s.expander v s.env.nextWrite)

/-- `Alloc` (R199, R221). -/
def State.alloc (s : State) : State := (s.withEnv s.env.popAlloc).port 0 (.alloc s.env.nextAlloc)

/-- `TOpen(ctx.address[6:0], I2C_SPEED, I2C_TIMEOUT_MS, cfg)` (R191). -/
def State.tOpen (side : BackendConfig) (s : State) : State :=
  (s.withEnv s.env.popOpen).port 0
    (.tOpen (busAddress s.ctx.address) s.cfg.i2cSpeed s.cfg.i2cTimeoutMs side s.env.nextOpen)

/-- `LCreate()` (R195). -/
def State.lCreate (s : State) : State := (s.withEnv s.env.popCreate).port 0 (.lCreate s.env.nextCreate)

/-! ### Raising a failure and returning from it (R227, R228). -/

/-- What is left of a command after a `TransferFailure` inside it, once the byte write's own abort path is done: INIT unwinds
"transport, then lock, then memory" and returns `InitSequenceFailure` (R161 line I5, R224); every other command returns
`TransferFailure` (R223, R226). -/
def abortLines : Instr → List Line
  | .init _ _ => [.closeTransport, .destroyLock, .freeContext .initSequenceFailure]
  | _ => [.ret .transferFailure]

/-- `raise TransferFailure`: the rest of the command is abandoned. Inside a byte write lines BF1 (INVALIDATE) and BF2 (Release)
run first (R123, R125); a bare nibble of RESETSEQ or a lone wire byte holds no lock and has nothing to undo (R104, R227). -/
def Progress.raiseTransfer (inByte : Bool) (p : Progress) : Progress :=
  { p with todo := (if inByte then [Line.invalidate, Line.release] else []) ++ abortLines p.cmd }

/-- The end of a command: its status goes to the requester, who is idle again (R160, R199 `Status(r, code)`, R228). The internal
operations of formats K and W are not on the command port and return no status there (R83). -/
def State.finish (r : Nat) (p : Progress) (result : Status) (s : State) : State :=
  (if p.cmd.isHost then s.port 0 (.status r (result.code s.cfg)) else s).withSeq r none

/-! ### The programs: the lines of the shared operations. -/

/-- `BYTE(isData, b, d)`, lines B0 to B7 (R123) with WAIT (R141), NIBBLE (R122) and RECORD (R142) written out. -/
def byteLines (c : Config) (isData : Bool) (b : Byte) (d : Tick) : List Line :=
  [.acquire, .readClock, .waitReady, .control isData,
   .nibbleWrite (upperNibble b) true true, .delay c.enablePulse, .nibbleWrite (upperNibble b) false true,
   .delay c.enableSettle,
   .nibbleWrite (lowerNibble b) true true, .delay c.enablePulse, .nibbleWrite (lowerNibble b) false true,
   .readClockAgain, .recordTick d, .release]

/-- A bare `NIBBLE(n, c0)` of RESETSEQ followed by the step's own delay (R101 steps S2 to S4). -/
def bareNibbleLines (c : Config) (n : Nibble) (after : Tick) : List Line :=
  [.nibbleWrite n true false, .delay c.enablePulse, .nibbleWrite n false false, .delay after]

/-- `RESETSEQ`, steps S1 to S8 (R101). -/
def resetLines (c : Config) : List Line :=
  [.control false, .delay c.powerOnDelay]
    ++ bareNibbleLines c 0x3 c.initDelay1
    ++ bareNibbleLines c 0x3 c.initDelay2
    ++ bareNibbleLines c 0x2 c.enableSettle
    ++ byteLines c false (functionSetByte c false true false) c.delayFunctionSet
    ++ byteLines c false (displayControlByte c true false false) c.delayDisplayControl
    ++ byteLines c false c.cmdClear c.delayClear
    ++ byteLines c false (entryModeByte c true false) c.delayEntryMode

/-- The head of WRITESTRING's loop at index `i`: `while i < STRING_CAP` (R171). -/
def stringLines (c : Config) (saddr : BitVec 16) (i : Nat) : List Line :=
  if i < c.stringCap then [.readString saddr i] else [.ret .success]

/-- What follows the read of string byte `v` at index `i`: the terminator ends the command; any other byte is one WRITECHAR and the
loop goes on (R171). -/
def stringTail (c : Config) (saddr : BitVec 16) (i : Nat) (v : Byte) : List Line :=
  if v = c.stringTerminator then [.ret .success]
  else byteLines c true v c.delayData ++ stringLines c saddr (i + 1)

/-! ### One line. `p.todo` is what remains after the line. -/

/-- `WAIT`, after `t <- Now()`: "if `nextReadyTick > now`, it blocks for the difference, capped" (R141). -/
def State.waitReady (t : Tick) (s : State) : State :=
  if t < s.ctx.nextReadyTick then s.delay (umin (s.ctx.nextReadyTick - t) s.cfg.maxWait) else s

/-- One raw write of a byte or bare nibble: on `fail`, raise (R122). -/
def State.writeLine (r : Nat) (p : Progress) (inByte : Bool) (v : Byte) (s : State) : State :=
  (s.tWrite v).withSeq r (some (if s.env.nextWrite.isOk then p else p.raiseTransfer inByte))

/-- The effect of one line on behalf of requester `r`. -/
def State.lineStep (r : Nat) (p : Progress) (l : Line) (s : State) : State :=
  match l with
  | .alloc =>
    s.alloc.withSeq r (some (if s.env.nextAlloc then p else { p with todo := [.freeContext .allocationFailure] }))
  | .fillDefaults address backlightOn => (s.withDefaults address backlightOn).withSeq r (some p)
  | .openTransport =>
    let s1 := s.tOpen (s.req r).side
    if s.env.nextOpen then (s1.withTransport true).withSeq r (some p)
    else s1.withSeq r (some { p with todo := [.freeContext .backendOpenFailure] })
  | .createLock =>
    if s.env.nextCreate then (s.lCreate.withLock true).withSeq r (some p)
    else s.lCreate.withSeq r (some { p with todo := [.closeTransport, .freeContext .allocationFailure] })
  | .delay n => (s.delay n).withSeq r (some p)
  | .control isData => s.withSeq r (some { p with ctl := controlNibble s.cfg s.ctx.backlightOn isData })
  | .nibbleWrite n enable inByte => s.writeLine r p inByte (nibbleWire s.cfg n p.ctl enable)
  | .acquire => ((s.port 0 (.acquire r)).withOwner (some r)).withSeq r (some p)
  | .readClock => s.now.withSeq r (some { p with t := s.nowValue })
  | .waitReady => (s.waitReady p.t).withSeq r (some p)
  | .readClockAgain => s.now.withSeq r (some { p with t2 := s.nowValue })
  | .recordTick d => (s.withTick (p.t2 + umax s.cfg.settleFloor d)).withSeq r (some p)
  | .release => ((s.port 0 (.release r)).withOwner none).withSeq r (some p)
  | .invalidate => (s.withTick 0).withSeq r (some p)
  | .storeBacklight e => (s.withBacklight e).withSeq r (some p)
  | .readString saddr i =>
    let v := Memory.read s.mem (stringAddress saddr i).toNat
    (s.port 0 (.memRead (stringAddress saddr i) v)).withSeq r (some { p with todo := stringTail s.cfg saddr i v })
  | .closeTransport => ((s.port 0 .tClose).withTransport false).withSeq r (some p)
  | .destroyLock => ((s.port 0 .lDestroy).withLock false).withSeq r (some p)
  | .becomeReady => (s.withLife .ready).finish r p .success
  | .freeContext result => (s.withCtx Context.absent).finish r p result
  | .ret result => s.finish r p result
  | .rawWrite v => s.writeLine r p false v

/-- Why the line has no step now, if it has none: the step conditions of R24 and R25. A lone wire byte also waits until no byte
write holds the lock, so that the four raw writes of a byte stay together (R61; log 15). -/
def State.hindrance (r : Nat) (l : Line) (s : State) : Option Fault :=
  match l with
  | .acquire =>
    if s.ctx.lockExists then (if s.ctx.lockOwner = none then none else some .waitsForLock) else some .noLock
  | .release => if s.ctx.lockOwner = some r then none else some .lockNotHeld
  | .nibbleWrite _ _ _ => if s.ctx.transportOpen then none else some .transportClosed
  | .rawWrite _ =>
    if s.ctx.transportOpen then (if s.ctx.lockOwner = none then none else some .waitsForLock) else some .transportClosed
  | _ => none

/-- Why the command in progress of requester `r` has no step now, if it has none. -/
def State.blocked (r : Nat) (s : State) : Option Fault :=
  match (s.req r).seq with
  | none => none
  | some p => p.todo.head?.bind fun l => s.hindrance r l

/-- Whether requester `r` has a command in progress whose next line has a step. -/
def State.canMove (r : Nat) (s : State) : Bool := (s.req r).seq.isSome && (s.blocked r).isNone

/-- Requester `r` performs the next line of its command in progress. -/
def State.perform (r : Nat) (s : State) : State :=
  match (s.req r).seq with
  | none => s
  | some p =>
    match p.todo with
    | [] => s.withSeq r none
    | l :: rest => s.lineStep r { p with todo := rest } l

/-- Up to `n` lines of the command in progress of requester `r`, until it ends or has no step. -/
def State.runLines : Nat → Nat → State → State
  | 0, _, s => s
  | n + 1, r, s => if s.canMove r then State.runLines n r (s.perform r) else s

/-! ### Running a command. -/

/-- A requester that has nothing in progress and nothing waiting on its command port. -/
def Requester.quiet (q : Requester) : Bool := q.seq.isNone && q.port.isEmpty

/-- Whether `exec` runs the current requester's command to its end: that is asked for (`grain`), and no other agent can move
between its lines, because nothing is laid down in the agenda and every other requester is quiet. No step asks for it (log 3). -/
def State.alone (s : State) : Bool :=
  s.env.grain == .command && s.env.agenda.isEmpty && (s.requesters.eraseIdx s.cur).all Requester.quiet

/-- The state in which `exec` runs one line (R8). -/
def State.byLine (s : State) : State := s.withEnv { s.env with grain := .line }

/-- More lines than any command has: WRITESTRING has at most 15 for a character, INIT 75 (R172). -/
def State.budget (s : State) : Nat := 16 * s.cfg.stringCap + 96

/-- The command in progress of the current requester goes on: by one line, or to its end when alone. Where its next line has no
step it stops by name. -/
def State.resume (s : State) : Host.Outcome State Fault Refusal :=
  match s.blocked s.cur with
  | some f => .fault f
  | none => .next (State.runLines (if s.alone then s.budget else 1) s.cur s)

/-- A command arrives whole on the command port (R27, R199 `Cmd(r, word, cfg)`) and the sequencer position stands at the first of
its lines. An internal operation of format K or W does not come through the command port (R83). -/
def State.arrive (i : Instr) (lines : List Line) (s : State) : State :=
  (if i.isHost then s.port 0 (.cmd s.cur (encode s.cfg i).bits24 (s.req s.cur).side) else s).withSeq s.cur
    (some { cmd := i, todo := lines, ctl := 0, t := 0, t2 := 0 })

/-- Why no command may start here, if it may not: no such requester (R8), an illegal configuration (U22), or the command's own
lifecycle condition. -/
def State.admission (lifecycle : Option Refusal) (s : State) : Option Refusal :=
  if s.cur < s.requesters.length then (if s.cfg.legal then lifecycle else some .illegalConfiguration)
  else some .noSuchRequester

/-- The common course of every instruction: a command in progress goes on; an idle requester starts it, if it is admitted, with
`started` being the state right after its arrival, which is one step (R8). -/
def State.runCommand (s : State) (i : Instr) (lifecycle : Option Refusal) (started : State) :
    Host.Outcome State Fault Refusal :=
  match (s.req s.cur).seq with
  | some p => if p.cmd = i then s.resume else .refused .requesterBusy
  | none =>
    match s.admission lifecycle with
    | some why => .refused why
    | none => .next (if s.alone then State.runLines s.budget s.cur started else started)

/-- Whether the requester's DEINIT is in progress. -/
def Requester.deinitInProgress (q : Requester) : Bool := q.seq.any fun p => p.cmd == .deinit

/-- The lifecycle condition of every command but INIT and DEINIT: `ctx.life = Ready` (R160), and the context is not being freed by
another requester's DEINIT (R162, U4). -/
def State.unlessReady (s : State) : Option Refusal :=
  if s.ctx.life = .ready then (if s.requesters.any Requester.deinitInProgress then some .contextBeingFreed else none)
  else some .notReady

/-- The lifecycle condition of INIT: `ctx.life = Absent` (R160, R161). -/
def State.unlessAbsent (s : State) : Option Refusal := if s.ctx.life = .absent then none else some .notAbsent

/-- The lifecycle condition of DEINIT: Ready, every other requester idle, the lock free (R162, D25). -/
def State.unlessDeinit (s : State) : Option Refusal :=
  if s.ctx.life = .ready then
    (if (s.requesters.eraseIdx s.cur).any (fun q => q.seq.isSome) || s.ctx.lockOwner.isSome then some .deinitWhileBusy else none)
  else some .notReady

/-- A command that is admitted when the context is Ready and consists of the given lines. -/
def State.readyCommand (i : Instr) (lines : List Line) (s : State) : Host.Outcome State Fault Refusal :=
  s.runCommand i s.unlessReady (s.arrive i lines)

/-- A command that is one byte write: its status is that of `BYTE` (R163 to R168, R170). -/
def State.byteCommand (i : Instr) (isData : Bool) (b : Byte) (d : Tick) (s : State) : Host.Outcome State Fault Refusal :=
  s.readyCommand i (byteLines s.cfg isData b d ++ [.ret .success])

end Sys2Proof.Machine
end

