-- ==== Sys2Proof/Machine/CommandBytes.lean ====
section
/-! DEFINITION. The members of the Command Opcode Set as the encoder's own operation `BYTE(0, k, d)` (spec/10_state.md R29,
spec/30_encoding.md R74, R75, R80, R83; delays spec/42_scheduler.md R144). No host command word encodes one (R201). -/

namespace Sys2Proof.Machine

/-- K.CLEAR. -/
def execKClear (s : State) : Host.Outcome State Fault Refusal :=
  s.byteCommand .kClear false s.cfg.cmdClear s.cfg.delayClear

/-- K.HOME; the "x" bit is always sent as 0 (R74). -/
def execKHome (x : Bool) (s : State) : Host.Outcome State Fault Refusal :=
  s.byteCommand (.kHome x) false s.cfg.cmdHome s.cfg.delayHome

/-- K.ENTRY_MODE_SET. -/
def execKEntryModeSet (i sh : Bool) (s : State) : Host.Outcome State Fault Refusal :=
  s.byteCommand (.kEntryModeSet i sh) false (entryModeByte s.cfg i sh) s.cfg.delayEntryMode

/-- K.DISPLAY_CONTROL. -/
def execKDisplayControl (d c b : Bool) (s : State) : Host.Outcome State Fault Refusal :=
  s.byteCommand (.kDisplayControl d c b) false (displayControlByte s.cfg d c b) s.cfg.delayDisplayControl

/-- K.SHIFT; the "x" bits are always sent as 0 (R74). -/
def execKShift (t r : Bool) (x : BitVec 2) (s : State) : Host.Outcome State Fault Refusal :=
  s.byteCommand (.kShift t r x) false (shiftByte s.cfg t r) s.cfg.delayShift

/-- K.FUNCTION_SET: "emitted with one value only, `CMD_FUNCTION_SET | FS_2LINE`" (R80); any other value is refused by name. -/
def execKFunctionSet (l n f : Bool) (x : BitVec 2) (s : State) : Host.Outcome State Fault Refusal :=
  if (Instr.kFunctionSet l n f x).wellFormed then
    s.byteCommand (.kFunctionSet l n f x) false (functionSetByte s.cfg l n f) s.cfg.delayFunctionSet
  else .refused .neverEmitted

/-- K.SET_CGRAM_ADDR: "never emitted" (R80, R53, D36), and no delay is given for it (R144). -/
def execKSetCgramAddr (_a : BitVec 6) (_s : State) : Host.Outcome State Fault Refusal := .refused .neverEmitted

/-- K.SET_DDRAM_ADDR. -/
def execKSetDdramAddr (a : BitVec 7) (s : State) : Host.Outcome State Fault Refusal :=
  s.byteCommand (.kSetDdramAddr a) false (setDdramByte s.cfg (a.zeroExtend 8)) s.cfg.delaySetDdram

end Sys2Proof.Machine
end

