-- ==== Sys2Proof/Machine/Commands.lean ====
section
/-! DEFINITION. The host commands that send one command byte, and SETBACKLIGHT (spec/43_command_api.md R163 to R169). -/

namespace Sys2Proof.Machine

/-- CLEAR (R163). -/
def execClear (s : State) : Host.Outcome State Fault Refusal :=
  s.byteCommand .clear false s.cfg.cmdClear s.cfg.delayClear

/-- HOME (R164). -/
def execHome (s : State) : Host.Outcome State Fault Refusal :=
  s.byteCommand .home false s.cfg.cmdHome s.cfg.delayHome

/-- SETDISPLAY (R165). -/
def execSetDisplay (displayOn cursorOn blinkOn : Bool) (s : State) : Host.Outcome State Fault Refusal :=
  s.byteCommand (.setDisplay displayOn cursorOn blinkOn) false (displayControlByte s.cfg displayOn cursorOn blinkOn)
    s.cfg.delayDisplayControl

/-- SETENTRYMODE (R166). -/
def execSetEntryMode (leftToRight autoScroll : Bool) (s : State) : Host.Outcome State Fault Refusal :=
  s.byteCommand (.setEntryMode leftToRight autoScroll) false (entryModeByte s.cfg leftToRight autoScroll) s.cfg.delayEntryMode

/-- SETCURSOR (R167): out of range, `InvalidArgument` and no port event; otherwise set-DDRAM-addr with `column + ROWOFF[row]`. -/
def execSetCursor (row column : Byte) (s : State) : Host.Outcome State Fault Refusal :=
  if cursorInRange s.cfg row column then
    s.byteCommand (.setCursor row column) false (setDdramByte s.cfg (ddramAddress s.cfg row column)) s.cfg.delaySetDdram
  else s.readyCommand (.setCursor row column) [.ret .invalidArgument]

/-- SCROLL (R168). -/
def execScroll (target direction : Bool) (s : State) : Host.Outcome State Fault Refusal :=
  s.byteCommand (.scroll target direction) false (shiftByte s.cfg target direction) s.cfg.delayShift

/-- SETBACKLIGHT, policy `update-state-only`: lines L1 to L3 (R169). -/
def execSetBacklight (enable : Bool) (s : State) : Host.Outcome State Fault Refusal :=
  s.readyCommand (.setBacklight enable) [.acquire, .storeBacklight enable, .release, .ret .success]

end Sys2Proof.Machine
end

