-- ==== Sys2Proof/Machine/DataBytes.lean ====
section
/-! DEFINITION. The host commands that send data bytes (spec/43_command_api.md R170, R171). -/

namespace Sys2Proof.Machine

/-- WRITECHAR (R170). -/
def execWriteChar (c : Byte) (s : State) : Host.Outcome State Fault Refusal :=
  s.byteCommand (.writeChar c) true c s.cfg.delayData

/-- WRITESTRING (R171): the loop starts at index 0. -/
def execWriteString (saddr : BitVec 16) (s : State) : Host.Outcome State Fault Refusal :=
  s.readyCommand (.writeString saddr) (stringLines s.cfg saddr 0)

end Sys2Proof.Machine
end

