-- ==== Sys2Proof/Machine/Lifecycle.lean ====
section
/-! DEFINITION. INIT and DEINIT (spec/43_command_api.md R161, R162), with RESETSEQ (spec/40_reset_sequencer.md). -/

namespace Sys2Proof.Machine

/-- The lines of INIT, I1 to I6 (R161); I0 is its arrival. -/
def initLines (c : Config) (address : Byte) (backlightOn : Bool) : List Line :=
  [.alloc, .fillDefaults address backlightOn, .openTransport, .createLock] ++ resetLines c ++ [.becomeReady]

/-- INIT: construct the context and reset the display (R161). -/
def execInit (address : Byte) (backlightOn : Bool) (s : State) : Host.Outcome State Fault Refusal :=
  s.runCommand (.init address backlightOn) s.unlessAbsent
    ((s.arrive (.init address backlightOn) (initLines s.cfg address backlightOn)).withLife .constructing)

/-- The lines of DEINIT, X1 to X3 (R162). -/
def deinitLines : List Line := [.closeTransport, .destroyLock, .freeContext .success]

/-- DEINIT: destroy the context; no raw write, no `Acquire` (R162). -/
def execDeinit (s : State) : Host.Outcome State Fault Refusal :=
  s.runCommand .deinit s.unlessDeinit (s.arrive .deinit deinitLines)

end Sys2Proof.Machine
end

