-- ==== Sys2Proof/Machine/WireByte.lean ====
section
/-! DEFINITION. The wire byte as the port primitive `TWrite(v)` (spec/00_scope.md R10, spec/30_encoding.md R71, spec/44 R193). -/

namespace Sys2Proof.Machine

/-- W.WIRE_BYTE: one raw write of the wire byte (log 15). -/
def execWireByte (value : Nibble) (backlight enable rs : Bool) (s : State) : Host.Outcome State Fault Refusal :=
  s.readyCommand (.wireByte value backlight enable rs) [.rawWrite (wireByteOf s.cfg value backlight enable rs), .ret .success]

end Sys2Proof.Machine
end

