-- ==== Sys2Proof/Machine/Dispatch.lean ====
section
/-! DEFINITION. One arm per instruction: the meaning it calls. -/

namespace Sys2Proof.Machine

def exec (i : Instr) (s : State) : Host.Outcome State Fault Refusal :=
  match i with
  -- format H, the host commands
  | .init address backlightOn => Sys2Proof.Machine.execInit address backlightOn s
  | .deinit => Sys2Proof.Machine.execDeinit s
  | .clear => Sys2Proof.Machine.execClear s
  | .home => Sys2Proof.Machine.execHome s
  | .setDisplay d c b => Sys2Proof.Machine.execSetDisplay d c b s
  | .setEntryMode l a => Sys2Proof.Machine.execSetEntryMode l a s
  | .setCursor row column => Sys2Proof.Machine.execSetCursor row column s
  | .scroll t d => Sys2Proof.Machine.execScroll t d s
  | .setBacklight e => Sys2Proof.Machine.execSetBacklight e s
  | .writeChar c => Sys2Proof.Machine.execWriteChar c s
  | .writeString saddr => Sys2Proof.Machine.execWriteString saddr s
  -- format K, the command bytes
  | .kClear => Sys2Proof.Machine.execKClear s
  | .kHome x => Sys2Proof.Machine.execKHome x s
  | .kEntryModeSet a b => Sys2Proof.Machine.execKEntryModeSet a b s
  | .kDisplayControl d c b => Sys2Proof.Machine.execKDisplayControl d c b s
  | .kShift t r x => Sys2Proof.Machine.execKShift t r x s
  | .kFunctionSet l n f x => Sys2Proof.Machine.execKFunctionSet l n f x s
  | .kSetCgramAddr a => Sys2Proof.Machine.execKSetCgramAddr a s
  | .kSetDdramAddr a => Sys2Proof.Machine.execKSetDdramAddr a s
  -- format W, the wire byte
  | .wireByte v b e r => Sys2Proof.Machine.execWireByte v b e r s

end Sys2Proof.Machine
end

