-- ==== Sys2Proof/Machine/Fetch.lean ====
section
/-! DEFINITION. Which agent moves next, and the taking of a command word from a requester's command port (spec/00_scope.md R8,
spec/10_state.md R27, spec/20_memory.md R61, spec/44 R200). -/

namespace Sys2Proof.Machine

/-- What the machine does in one step: run an instruction, or answer at once. -/
inductive Turn where
  | run (i : Instr) (s : State)
  | answer (o : Host.Outcome State Fault Refusal)

/-- Requester `r` takes the word `w` from its command port, with its side operand; `rest` stays (R82: in order). -/
def State.take (r : Nat) (w : PortWord) (rest : List PortWord) (s : State) : State :=
  (s.withReq r { s.req r with port := rest, side := w.side }).withCur r

/-- Whether requester `r` has a step: its command in progress has one, or it is idle and a word stands on its port. -/
def State.hasStep (r : Nat) (s : State) : Bool :=
  match (s.req r).seq with
  | some _ => s.canMove r
  | none => !(s.req r).port.isEmpty

/-- The turn of requester `r`: its command in progress, or the next word of its port, decoded; a reserved word is refused with "no
state change, no port event, no status" (R79). It runs one line (R8). -/
def State.turnOf (r : Nat) (s : State) : Turn :=
  match (s.req r).seq with
  | some p => .run p.cmd (s.withCur r).byLine
  | none =>
    match (s.req r).port with
    | [] => .answer (.next s)
    | w :: rest =>
      match decodeHost w.word with
      | .error why => .answer (.refused (.invalidWord why))
      | .ok i => .run i (s.take r w rest).byLine

/-- The word as the decoder takes it (R70). -/
def InnerWord.word : InnerWord → Word
  | .command k => .command k
  | .wire v => .wire v

/-- The turn of an internal operation laid down for requester `r` (log 15); it is passed over where `r` has a command in progress, and
refused where no operation has that word (R80). -/
def State.innerTurn (r : Nat) (w : InnerWord) (s : State) : Turn :=
  match (s.req r).seq with
  | some _ => .answer (.next s)
  | none =>
    match decode s.cfg w.word with
    | .error why => .answer (.refused (.invalidWord why))
    | .ok i => .run i (s.withCur r).byLine

/-- Time passes with no port event: the block "does nothing" (R200, idle). -/
def State.idleFor (n : Nat) (s : State) : State := s.withEnv { s.env with clock := s.env.clock + n }

/-- A laid-down move (R8, R63, R200). A requester that has no step is passed over. -/
def State.moveTurn (m : Move) (s : State) : Turn :=
  match m with
  | .run r => if s.hasStep r then s.turnOf r else .answer (.next s)
  | .idle n => .answer (.next (s.idleFor n))
  | .store addr value => .answer (.next (s.withMem (Memory.write s.mem addr.toNat value)))
  | .present r w => .answer (.next (s.withReq r { s.req r with port := (s.req r).port ++ [w] }))
  | .inner r w => s.innerTurn r w

/-- The requesters that have a step, in number order. -/
def State.movers (s : State) : List Nat := (List.range s.requesters.length).filter fun r => s.hasStep r

/-- The first reason a requester has no step, where some are in the middle of a command and none can move (U27). -/
def State.stuckBy (s : State) : Fault := ((List.range s.requesters.length).filterMap fun r => s.blocked r).head?.getD .waitsForLock

/-- Which of the requesters `r :: rs` moves: the one, or one of several by a free value (R61, U14, U15; log 10). -/
def State.chosen (r : Nat) (rs : List Nat) (s : State) : Nat :=
  if rs.isEmpty then r else (r :: rs)[Config.freeChoice s.env.draws % (rs.length + 1)]?.getD r

/-- One draw is used up where there was a choice. -/
def State.afterChoice (rs : List Nat) (s : State) : State :=
  if rs.isEmpty then s else s.withEnv { s.env with draws := s.env.draws + 1 }

/-- The next turn: the agenda's first move, or else a requester that has a step, or else idling while nothing is to do; where a
command is in progress and no requester has a step the machine is stuck. -/
def State.nextTurn (s : State) : Turn :=
  match s.env.agenda with
  | m :: rest => (s.withEnv { s.env with agenda := rest }).moveTurn m
  | [] =>
    match s.movers with
    | r :: rs => (s.afterChoice rs).turnOf (s.chosen r rs)
    | [] => if s.requesters.all Requester.quiet then .answer (.next (s.withEnv (s.env.tick 0))) else .answer (.fault s.stuckBy)

/-- Requester 0 is idle with the given words on its command port, and the given move is the next one. -/
def State.lay (port : List PortWord) (m : Move) (s : State) : State :=
  { s with
    requesters := { s.req 0 with port := port, seq := none } :: s.requesters.tail
    env := { s.env with agenda := m :: s.env.agenda } }

/-- A word placed where the very next step takes it (log 13): a host command word first on the command port of requester 0, which
moves next; a word of formats K and W, which has no place on a command port (R83), as that requester's internal operation. -/
def State.place (w : Word) (s : State) : State :=
  match w with
  | .host h => s.lay ({ word := h, side := (s.req 0).side } :: (s.req 0).port) (.run 0)
  | .command k => s.lay (s.req 0).port (.inner 0 (.command k))
  | .wire v => s.lay (s.req 0).port (.inner 0 (.wire v))

end Sys2Proof.Machine
end

