-- ==== Sys2Proof/Machine/Observer.lean ====
section
/-! DEFINITION. What can be read off the history of port events (spec/44 R199), and the display-side observer of
spec/41_encoder.md R127, which is no part of the block. -/

namespace Sys2Proof.Machine

/-- The port events in the order they completed (R199). -/
def State.events (s : State) : List Event := s.history.map Stamped.event

/-- The value of a raw write that answered `ok`. -/
def Event.written : Event → Option Byte
  | .tWrite v true => some v
  | _ => none

/-- The value of a raw write, whatever it answered. -/
def Event.attempted : Event → Option Byte
  | .tWrite v _ => some v
  | _ => none

/-- The wire bytes of the raw writes that answered `ok`, in order. -/
def wiresOf (es : List Event) : List Byte := es.filterMap Event.written

/-- The wire bytes of all raw writes attempted, in order. -/
def attemptsOf (es : List Event) : List Byte := es.filterMap Event.attempted

/-- The argument of a `Delay`. -/
def Event.delayed : Event → Option Tick
  | .delay n => some n
  | _ => none

/-- The address of a `MemRead`. -/
def Event.readAt : Event → Option (BitVec 16)
  | .memRead a _ => some a
  | _ => none

/-- The requester of an `Acquire`. -/
def Event.acquired : Event → Option Nat
  | .acquire r => some r
  | _ => none

/-- The requester of a `Release`. -/
def Event.released : Event → Option Nat
  | .release r => some r
  | _ => none

/-- The requester and the code of a `Status`. -/
def Event.returned : Event → Option (Nat × Byte)
  | .status r code => some (r, code)
  | _ => none

/-- The delays requested, in order. -/
def delaysOf (es : List Event) : List Tick := es.filterMap Event.delayed

/-- The string addresses read, in order. -/
def readsOf (es : List Event) : List (BitVec 16) := es.filterMap Event.readAt

/-- Who acquired the lock, in order. -/
def acquiresOf (es : List Event) : List Nat := es.filterMap Event.acquired

/-- Who released the lock, in order. -/
def releasesOf (es : List Event) : List Nat := es.filterMap Event.released

/-- The statuses returned, in order. -/
def statusesOf (es : List Event) : List (Nat × Byte) := es.filterMap Event.returned

/-- The enable line of a wire byte. -/
def enableLine (c : Config) (v : Byte) : Bool := v &&& c.enBit != 0

/-- The register select line of a wire byte. -/
def registerSelect (c : Config) (v : Byte) : Bool := v &&& c.rsBit != 0

/-- The nibbles latched: one "by each pair of consecutive raw writes `(u, v)` on the bus with `u & EN_BIT != 0` and
`v & EN_BIT = 0`", with the register select of `v` (R127). -/
def latches (c : Config) : List Byte → List (Nibble × Bool)
  | [] => []
  | [_] => []
  | u :: v :: rest =>
    if enableLine c u && !enableLine c v then (upperNibble v, registerSelect c v) :: latches c (v :: rest)
    else latches c (v :: rest)

/-- The register select of a byte paired from two latches, `pending` being the latches from that pair on. Where both have the same it is
that one (R127). Where they differ, as with a stray nibble after a failed byte, the spec does not say: a free value (log 22, DESIGN
CHOICE). -/
def pairedSelect (first second : Bool) (pending : List (Nibble × Bool)) : Bool :=
  if first = second then second else Config.mixedSelect pending

/-- The bytes a controller in 4-bit mode pairs the latches into, "first as the upper and second as the lower half" (R127, G6, general
knowledge; log 11), with the register select of `pairedSelect`. -/
def assembled : List (Nibble × Bool) → List (Byte × Bool)
  | [] => []
  | [_] => []
  | (hi, first) :: (lo, second) :: rest =>
    (hi ++ lo, pairedSelect first second ((hi, first) :: (lo, second) :: rest)) :: assembled rest

end Sys2Proof.Machine
end

