-- ==== Sys2Proof/Machine/Step.lean ====
section
/-! DEFINITION. One step of the machine. -/

namespace Sys2Proof.Machine

/-- What a turn answers. -/
def Turn.outcome : Turn → Host.Outcome State Fault Refusal
  | .run i t => exec i t
  | .answer o => o

/-- One step: the agent whose turn it is moves (R8); a requester's turn runs its instruction. -/
def step (s : State) : Host.Outcome State Fault Refusal := s.nextTurn.outcome

/-- The state in which the very next step takes the instruction whose bits are `w` (log 13). -/
def State.withFetchWord (s : State) (nbits w : Nat) : State :=
  match tableWord nbits w with
  | some x => s.place x
  | none => s

end Sys2Proof.Machine
end

