-- ==== Sys2Proof/Safety.lean ====
section
/-! DEFINITION. What the statements speak of: when a command runs alone, what a completed or a failed command leaves, and the
invariants of the machine. -/

namespace Sys2Proof.Machine

/-! ### Runs of the machine. -/

/-- The machine gets from `s` to `t` in `n` steps. -/
def Steps : Nat → State → State → Prop
  | 0, s, t => s = t
  | n + 1, s, t => ∃ u, step s = .next u ∧ Steps n u t

/-! ### When a command executes normally. -/

/-- The current requester exists, is idle, the configuration is legal (R6, R7), no other agent has anything to do, and `exec` is asked
for the whole command (log 3). -/
def State.quietStart (s : State) : Bool :=
  decide (s.cur < s.requesters.length) && s.cfg.legal && s.alone && (s.req s.cur).seq.isNone

/-- A Ready context with its transport open and its lock free (R34, R251), and a requester that may start a command. -/
def State.readyAlone (s : State) : Bool :=
  s.quietStart && decide (s.ctx.life = .ready) && s.ctx.transportOpen && s.ctx.lockExists && s.ctx.lockOwner.isNone

/-- No context (R250), and a requester that may start INIT. -/
def State.absentAlone (s : State) : Bool := s.quietStart && decide (s.ctx.life = .absent)

/-- No context exists any more: Absent, transport closed, no lock (R34, R252, R255). The fields that have no value are not spoken
of. -/
def Context.Freed (c : Context) : Prop :=
  c.life = .absent ∧ c.transportOpen = false ∧ c.lockExists = false ∧ c.lockOwner = none

/-! ### What every command leaves alone. -/

/-- Configuration, current requester, every requester (ports, side operands, positions), host string memory, and the scripts of the
environment other than time and the transport's answers are as before. -/
def Unchanged (s t : State) : Prop :=
  t.cfg = s.cfg ∧ t.cur = s.cur ∧ t.requesters = s.requesters ∧ t.mem = s.mem ∧ t.env.agenda = s.env.agenda ∧
    t.env.allocs = s.env.allocs ∧ t.env.opens = s.env.opens ∧ t.env.creates = s.env.creates ∧ t.env.grain = s.env.grain

/-! ### The port events of a byte write (R123) and of the commands that are one. -/

/-- `Cmd(r, word, cfg)`, for a host command only (R83, R199). -/
def cmdEvents (s : State) (i : Instr) : List Event :=
  if i.isHost then [.cmd s.cur (encode s.cfg i).bits24 (s.req s.cur).side] else []

/-- `Status(r, code)`, for a host command only (R83, R199). -/
def statusEvents (s : State) (i : Instr) (result : Status) : List Event :=
  if i.isHost then [.status s.cur (result.code s.cfg)] else []

/-- How long WAIT waits when it reads `now`: nothing, or the difference up to the cap (R141). -/
def waitFor (s : State) (now : Tick) : Option Tick :=
  if now < s.ctx.nextReadyTick then some (umin (s.ctx.nextReadyTick - now) s.cfg.maxWait) else none

/-- The `Delay` of WAIT, if any (R141). -/
def waitEvents (s : State) (now : Tick) : List Event :=
  match waitFor s now with
  | some w => [.delay w]
  | none => []

/-- The microseconds WAIT waits at least. -/
def waitedMicros (s : State) (now : Tick) : Nat :=
  match waitFor s now with
  | some w => w.toNat
  | none => 0

/-- The four wire bytes of a byte write: `HI(b)|c|EN_BIT, HI(b)|c, LO(b)|c|EN_BIT, LO(b)|c` with `c = CTRL(backlight, isData)` (R73). -/
def wireBytes (c : Config) (backlight isData : Bool) (b : Byte) : List Byte :=
  [upperInPlace b ||| controlNibble c backlight isData ||| c.enBit, upperInPlace b ||| controlNibble c backlight isData,
   lowerInPlace b ||| controlNibble c backlight isData ||| c.enBit, lowerInPlace b ||| controlNibble c backlight isData]

/-- The two wire bytes of a bare nibble (R73, R122). -/
def nibbleBytes (c : Config) (backlight : Bool) (n : Nibble) : List Byte :=
  [nibbleInPlace n ||| controlNibble c backlight false ||| c.enBit, nibbleInPlace n ||| controlNibble c backlight false]

/-- The events between WAIT and RECORD when nothing fails: `TWrite, Delay(1), TWrite, Delay(38), TWrite, Delay(1), TWrite` (R123). -/
def transferEvents (c : Config) (backlight isData : Bool) (b : Byte) : List Event :=
  [.tWrite (upperInPlace b ||| controlNibble c backlight isData ||| c.enBit) true, .delay c.enablePulse,
   .tWrite (upperInPlace b ||| controlNibble c backlight isData) true, .delay c.enableSettle,
   .tWrite (lowerInPlace b ||| controlNibble c backlight isData ||| c.enBit) true, .delay c.enablePulse,
   .tWrite (lowerInPlace b ||| controlNibble c backlight isData) true]

/-- The same events when the raw write with index `k` fails: the ones before it, and it (R125). -/
def failedTransferEvents (c : Config) (backlight isData : Bool) (b : Byte) (k : Nat) : List Event :=
  (transferEvents c backlight isData b).take (2 * k) ++ [.tWrite ((wireBytes c backlight isData b)[k]?.getD 0) false]

/-- A command that is one byte write has completed: the port events of R123 in their order, the tick recorded from the second clock
reading (R142), the expander holding the last wire byte, and nothing else changed. The readings `c1`, `c2` are the Clock's values
in WAIT and in RECORD, apart by at least the waits between them (R198). -/
def ByteSent (s t : State) (i : Instr) (isData : Bool) (b : Byte) (d : Tick) : Prop :=
  ∃ c1 c2 : Nat,
    s.env.clock ≤ c1 ∧
    c1 + waitedMicros s (BitVec.ofNat 64 c1) + 2 * s.cfg.enablePulse.toNat + s.cfg.enableSettle.toNat ≤ c2 ∧
    c2 ≤ t.env.clock ∧
    t.ctx = { s.ctx with nextReadyTick := BitVec.ofNat 64 c2 + umax s.cfg.settleFloor d } ∧
    t.events = s.events ++ cmdEvents s i ++ [.acquire s.cur, .now (BitVec.ofNat 64 c1)] ++ waitEvents s (BitVec.ofNat 64 c1)
      ++ transferEvents s.cfg s.ctx.backlightOn isData b
      ++ [.now (BitVec.ofNat 64 c2), .release s.cur] ++ statusEvents s i .success ∧
    t.expander = lowerInPlace b ||| controlNibble s.cfg s.ctx.backlightOn isData ∧
    t.env.writes = s.env.writes.drop 4 ∧
    Unchanged s t

/-- The expander's outputs after raw writes of `ws` in order, of which the one with index `k` is the last and answers `a`: those before
it were written (R55), it may or may not have been (U7). -/
def outputsAt (old : Byte) (ws : List Byte) (k : Nat) (a : WriteAnswer) : Byte :=
  outputsAfter ((ws.take k).getLast?.getD old) (ws[k]?.getD 0) a

/-- A command that is one byte write has failed at the raw write with index `k`, which answered `a`: the raw writes after it are not
attempted, the delays after it not requested, the tick is 0, the lock is released, the status is TransferFailure, and the expander
holds the last wire byte before it or that of the failed write (R125, R227, U7). -/
def ByteFailed (s t : State) (i : Instr) (isData : Bool) (b : Byte) (k : Nat) (a : WriteAnswer) : Prop :=
  ∃ c1 : Nat,
    s.env.clock ≤ c1 ∧ c1 ≤ t.env.clock ∧
    t.ctx = { s.ctx with nextReadyTick := 0 } ∧
    t.events = s.events ++ cmdEvents s i ++ [.acquire s.cur, .now (BitVec.ofNat 64 c1)] ++ waitEvents s (BitVec.ofNat 64 c1)
      ++ failedTransferEvents s.cfg s.ctx.backlightOn isData b k
      ++ [.release s.cur] ++ statusEvents s i .transferFailure ∧
    t.expander = outputsAt s.expander (wireBytes s.cfg s.ctx.backlightOn isData b) k a ∧
    t.env.writes = s.env.writes.drop (k + 1) ∧
    Unchanged s t

/-- A command that is one byte write, run alone: it answers a next state whatever the transport answers. When all four raw writes
answer `ok` the byte is sent (R123); when the one with index `k` fails after `ok` answers before it, the byte write aborts (R125). -/
def SendsByte (s : State) (i : Instr) (isData : Bool) (b : Byte) (d : Tick) : Prop :=
  (∀ ws, s.env.writes = .ok :: .ok :: .ok :: .ok :: ws → ∃ t, exec i s = .next t ∧ ByteSent s t i isData b d) ∧
  (∀ (k : Nat) (a : WriteAnswer) (ws : List WriteAnswer), k < 4 → s.env.writes = List.replicate k .ok ++ a :: ws → a.isOk = false →
    ∃ t, exec i s = .next t ∧ ByteFailed s t i isData b k a)

/-- The byte and delay of each command that is one byte write, by the tables of R172 and R144. -/
def byteOf (c : Config) : Instr → Option (Bool × Byte × Tick)
  | .clear => some (false, c.cmdClear, c.delayClear)
  | .home => some (false, c.cmdHome, c.delayHome)
  | .setDisplay d k b => some (false, displayControlByte c d k b, c.delayDisplayControl)
  | .setEntryMode l a => some (false, entryModeByte c l a, c.delayEntryMode)
  | .setCursor row column =>
    if row.toNat < c.rowCount ∧ column.toNat < c.columnCount then
      some (false, c.cmdSetDdram ||| (column + c.rowOffset row.toNat), c.delaySetDdram)
    else none
  | .scroll t d => some (false, shiftByte c t d, c.delayShift)
  | .writeChar ch => some (true, ch, c.delayData)
  | .kClear => some (false, c.cmdClear, c.delayClear)
  | .kHome _ => some (false, c.cmdHome, c.delayHome)
  | .kEntryModeSet i s => some (false, entryModeByte c i s, c.delayEntryMode)
  | .kDisplayControl d k b => some (false, displayControlByte c d k b, c.delayDisplayControl)
  | .kShift t r _ => some (false, shiftByte c t r, c.delayShift)
  | .kFunctionSet false true false _ => some (false, c.cmdFunctionSet ||| c.fs2Line, c.delayFunctionSet)
  | .kSetDdramAddr a => some (false, c.cmdSetDdram ||| a.zeroExtend 8, c.delaySetDdram)
  | .init _ _ => none
  | .deinit => none
  | .setBacklight _ => none
  | .writeString _ => none
  | .kFunctionSet _ _ _ _ => none
  | .kSetCgramAddr _ => none
  | .wireByte _ _ _ _ => none

/-- The bits of a command byte that its opcode, its flags or its address use; the others are ignored by the controller (R74, R75). -/
def usedBits (c : Config) : Instr → Byte
  | .kClear => c.cmdClear
  | .kHome _ => c.cmdHome
  | .kEntryModeSet _ _ => c.cmdEntryMode ||| c.emIncrement ||| c.emShift
  | .kDisplayControl _ _ _ => c.cmdDisplayControl ||| c.dcDisplay ||| c.dcCursor ||| c.dcBlink
  | .kShift _ _ _ => c.cmdShift ||| c.shDisplay ||| c.shRight
  | .kFunctionSet _ _ _ _ => c.cmdFunctionSet ||| c.fs8Bit ||| c.fs2Line ||| c.fs5x10
  | _ => 0xFF

/-! ### Strings and the reset sequence. -/

/-- The characters of the string at `saddr` from index `i` on, at most `n`: the bytes before the terminator (R171). -/
def stringBytes (c : Config) (m : List Host.Cell) (saddr : BitVec 16) : Nat → Nat → List Byte
  | 0, _ => []
  | n + 1, i =>
    if Memory.read m (stringAddress saddr i).toNat = c.stringTerminator then []
    else Memory.read m (stringAddress saddr i).toNat :: stringBytes c m saddr n (i + 1)

/-- The characters WRITESTRING sends: up to the cap or the terminator, whichever first (R171). -/
def stringSent (s : State) (saddr : BitVec 16) : List Byte := stringBytes s.cfg s.mem saddr s.cfg.stringCap 0

/-- The wire bytes of a list of characters sent as data bytes (R171, R73). -/
def stringWires (s : State) (chars : List Byte) : List Byte := chars.flatMap (wireBytes s.cfg s.ctx.backlightOn true)

/-- The 22 wire bytes of RESETSEQ in their order: nibbles 3, 3, 2 and the four bytes of steps S5 to S8 (R101, R105). -/
def resetWires (c : Config) (backlight : Bool) : List Byte :=
  nibbleBytes c backlight 3 ++ nibbleBytes c backlight 3 ++ nibbleBytes c backlight 2
    ++ wireBytes c backlight false (c.cmdFunctionSet ||| c.fs2Line)
    ++ wireBytes c backlight false (c.cmdDisplayControl ||| c.dcDisplay)
    ++ wireBytes c backlight false c.cmdClear
    ++ wireBytes c backlight false (c.cmdEntryMode ||| c.emIncrement)

/-! ### Invariants. -/

/-- The lines still to run of command `i`, seen from whether its requester holds the lock: `Acquire` only without it, `Release`
only with it, the raw writes of a byte exactly while it is held, a bare raw write only without it, the tick and the backlight
written only while it is held, the handles touched and the status returned only after it is released; the last line ends the
command (R33, R64, R123, R125, R128, R169). -/
def disciplined (i : Instr) : Bool → List Line → Bool
  | _, [] => false
  | held, .acquire :: rest => !held && disciplined i true rest
  | held, .release :: rest => held && disciplined i false rest
  | held, .nibbleWrite _ _ inByte :: rest => (inByte == held) && (held || i.lifecycle) && (i != .deinit) && disciplined i held rest
  | held, .rawWrite _ :: rest => !held && !i.lifecycle && disciplined i held rest
  | held, .recordTick _ :: rest => held && disciplined i held rest
  | held, .invalidate :: rest => held && disciplined i held rest
  | held, .storeBacklight _ :: rest => held && i.setsBacklight && disciplined i held rest
  | held, .readString _ _ :: rest => !held && !i.lifecycle && rest.isEmpty
  | held, .alloc :: rest => !held && i.lifecycle && disciplined i held rest
  | held, .fillDefaults _ _ :: rest => !held && i.lifecycle && disciplined i held rest
  | held, .openTransport :: rest => !held && i.lifecycle && disciplined i held rest
  | held, .createLock :: rest => !held && i.lifecycle && disciplined i held rest
  | held, .closeTransport :: rest => !held && i.lifecycle && disciplined i held rest
  | held, .destroyLock :: rest => !held && i.lifecycle && disciplined i held rest
  | held, .becomeReady :: rest => !held && i.lifecycle && rest.isEmpty
  | held, .freeContext _ :: rest => !held && i.lifecycle && rest.isEmpty
  | held, .ret _ :: rest => !held && !i.lifecycle && rest.isEmpty
  | held, .delay _ :: rest => disciplined i held rest
  | held, .control _ :: rest => disciplined i held rest
  | held, .readClock :: rest => disciplined i held rest
  | held, .waitReady :: rest => disciplined i held rest
  | held, .readClockAgain :: rest => disciplined i held rest

/-- The must-be-one and must-be-zero bits of a host command word by its operation (the `mask` column of spec/opcode_table.json;
R76, R79). -/
def hostMask : Nat → BitVec 24
  | 0 => 0xFF00FE
  | 1 => 0xFFFFFF
  | 2 => 0xFFFFFF
  | 3 => 0xFFFFFF
  | 4 => 0xFFFFF8
  | 5 => 0xFFFFFC
  | 6 => 0xFF0000
  | 7 => 0xFFFFFC
  | 8 => 0xFFFFFE
  | 9 => 0xFFFF00
  | _ => 0xFF0000

/-- The operation byte of a host command word (R76). -/
def hostOp (w : BitVec 24) : Byte := w.extractLsb' 16 8

/-- The command of requester `r`, if it has one in progress. -/
def State.inProgress (r : Nat) (s : State) : Option Instr := (s.req r).seq.map Progress.cmd

/-- The lock discipline and the exclusiveness of construction and teardown (R25, R26, R64, R235): every command in progress is
disciplined, whoever owns the lock has a command in progress, a lifecycle command excludes every other command, an Absent context
has none, a context that is not Ready has none but INIT, and an INIT in progress means Constructing. -/
def LockDiscipline (s : State) : Prop :=
  (∀ r p, (s.req r).seq = some p → disciplined p.cmd (decide (s.ctx.lockOwner = some r)) p.todo = true) ∧
  (∀ r, s.ctx.lockOwner = some r → (s.req r).seq.isSome = true) ∧
  (∀ r i r' i', s.inProgress r = some i → i.lifecycle = true → s.inProgress r' = some i' → r' = r) ∧
  (s.ctx.life = .absent → ∀ r, s.inProgress r = none) ∧
  (∀ r i, s.inProgress r = some i → s.ctx.life ≠ .ready → ∃ a b, i = .init a b) ∧
  (∀ r a b, s.inProgress r = some (.init a b) → s.ctx.life = .constructing)

/-- Every delay a line is going to record, with the floor, is at most the cap (R7). -/
def recordsWithin (c : Config) : List Line → Bool
  | [] => true
  | .recordTick d :: rest => decide ((umax c.settleFloor d).toNat ≤ c.maxWait.toNat) && recordsWithin c rest
  | _ :: rest => recordsWithin c rest

/-- The tick is never more than one cap ahead of the clock, and no command in progress will make it so (R7, R148). -/
def TickWithinCap (s : State) : Prop :=
  s.cfg.legal = true ∧ s.ctx.nextReadyTick.toNat ≤ s.env.clock + s.cfg.maxWait.toNat ∧
  ∀ r p, (s.req r).seq = some p → p.t2.toNat ≤ s.env.clock ∧ recordsWithin s.cfg p.todo = true

/-- The read/write line is clear in the wire byte (R80). -/
def rwClear (c : Config) (v : Byte) : Bool := v &&& c.rwBit == 0

/-- No line will send a wire byte of its own with the read/write line set. -/
def rawWritesClear (c : Config) : List Line → Bool
  | [] => true
  | .rawWrite v :: rest => rwClear c v && rawWritesClear c rest
  | _ :: rest => rawWritesClear c rest

/-- No raw write ever attempted has set the read/write line, and none in progress will (R72, R80, R126). -/
def ReadWriteNeverSet (s : State) : Prop :=
  s.cfg.legal = true ∧ (∀ v ∈ attemptsOf s.events, rwClear s.cfg v = true) ∧
  ∀ r p, (s.req r).seq = some p →
    (∃ backlight isData, p.ctl = controlNibble s.cfg backlight isData ∨ p.ctl = 0) ∧ rawWritesClear s.cfg p.todo = true

end Sys2Proof.Machine
end

