-- ==== Sys2Proof/Certificates/Slice0/Obligations.lean ====
section
/-! DEFINITION. The statements for the provers. Each docstring names the rules of spec/ it formalises. -/

open Sys2Proof Sys2Proof.Machine

/-! ### Encodings (spec/30_encoding.md) -/

/-- R70, R71, R74, R76, R77: no operand bit of any instruction is lost in its word, wherever the four lines of the wire byte are; the
command bytes have the patterns of R74 and of the opcode table. -/
def Obligations.DecodeOfEncodeIsTheInstruction : Prop :=
  ∀ (c : Config) (i : Instr), c.legalLines = true → c.tablePatterns = true → decode c (encode c i) = .ok i

/-- R70, R71, R74, R76, R77: a word that decodes has no other reading and no bit beyond its instruction. -/
def Obligations.EncodeOfDecodeIsTheWord : Prop :=
  ∀ (c : Config) (w : Word) (i : Instr), c.legalLines = true → c.tablePatterns = true → decode c w = .ok i → encode c i = w

/-- R79: which host command words are reserved, and that the machine refuses one (with no state, no port event, no status) when a
requester's turn comes to it. -/
def Obligations.ReservedHostWordsAreRefused : Prop :=
  ∀ w : BitVec 24,
    (decodeHost w = .error .reservedOp ↔ 0x0B ≤ (hostOp w).toNat) ∧
    (decodeHost w = .error .mustBeZero ↔
      (hostOp w).toNat ≤ 0x0A ∧ w &&& hostMask (hostOp w).toNat ≠ (hostOp w).zeroExtend 24 <<< 16) ∧
    ((∃ i, decodeHost w = .ok i) ↔
      (hostOp w).toNat ≤ 0x0A ∧ w &&& hostMask (hostOp w).toNat = (hostOp w).zeroExtend 24 <<< 16) ∧
    (∀ (s : State) (r : Nat) (side : BackendConfig) (rest : List PortWord) (why : DecodeError),
      (s.env.agenda = [] ∧ s.movers = [r]) ∨ (∃ moves, s.env.agenda = .run r :: moves) →
      (s.req r).seq = none → (s.req r).port = { word := w, side := side } :: rest →
      decodeHost w = .error why → step s = .refused (.invalidWord why))

/-- R83, R201: a word on the command port is one of the eleven host commands; a bare nibble or an arbitrary command byte has none. -/
def Obligations.HostWordsAreHostCommands : Prop := ∀ (w : BitVec 24) (i : Instr), decodeHost w = .ok i → i.isHost = true

/-- R71, R74, R76: words written out from the spec's encodings decode to what they stand for. That `decodeTableWord` reads an 8-bit
word as a command byte, and 0x00 as a wire byte, is the model's choice (log 14): the spec tells formats K and W apart by where a word
stands (R70). -/
def Obligations.WrittenOutWordsDecode : Prop :=
  decodeTableWord 24 0x002701 = some (.init 0x27 true) ∧
  decodeTableWord 24 0x040004 = some (.setDisplay true false false) ∧
  decodeTableWord 24 0x060103 = some (.setCursor 1 3) ∧
  decodeTableWord 24 0x070001 = some (.scroll false true) ∧
  decodeTableWord 24 0x0A0100 = some (.writeString 0x0100) ∧
  decodeTableWord 8 0x28 = some (.kFunctionSet false true false 0) ∧
  decodeTableWord 8 0xC3 = some (.kSetDdramAddr 0x43) ∧
  decodeTableWord 8 0x00 = some (.wireByte 0 false false false) ∧
  decode Config.default (.wire 0x4D) = .ok (.wireByte 4 true true true)

/-! ### The step (spec/00_scope.md R8, spec/10_state.md R27) -/

/-- R8, R27: the machine takes the next word of the only requester that has a step and runs the instruction it decodes to, in the
state where the word has left the port, its side operand stands on it, and that requester is the current one; it runs one line, the
arrival (`byLine`). -/
def Obligations.StepRunsTheDecodedInstruction : Prop :=
  ∀ (s : State) (r : Nat) (w : PortWord) (rest : List PortWord) (i : Instr),
    (s.req r).seq = none → (s.req r).port = w :: rest → decodeHost w.word = .ok i →
      (s.env.agenda = [] → s.movers = [r] → step s = exec i (s.take r w rest).byLine) ∧
      (∀ moves, s.env.agenda = .run r :: moves →
        step s = exec i ((s.withEnv { s.env with agenda := moves }).take r w rest).byLine)

/-- R8, R27: a command in progress goes on, by one line, when its requester's turn comes. -/
def Obligations.StepResumesTheCommandInProgress : Prop :=
  ∀ (s : State) (r : Nat) (p : Progress),
    (s.req r).seq = some p → s.canMove r = true →
      (s.env.agenda = [] → s.movers = [r] → step s = exec p.cmd (s.withCur r).byLine) ∧
      (∀ moves, s.env.agenda = .run r :: moves →
        step s = exec p.cmd ((s.withEnv { s.env with agenda := moves }).withCur r).byLine)

/-- R8: where another agent may move, a command in progress moves by one line only (one line touches at most one port). Every step
runs its command so. -/
def Obligations.OneLineAtATimeBetweenAgents : Prop :=
  ∀ (s : State) (p : Progress),
    (s.req s.cur).seq = some p → p.cmd.wellFormed = true → s.canMove s.cur = true → s.alone = false →
      exec p.cmd s = .next (s.perform s.cur) ∧ (s.perform s.cur).history.length ≤ s.history.length + 1

/-- R200, R230: with every requester idle and nothing presented, the block does nothing; only time passes. -/
def Obligations.IdleBlockDoesNothing : Prop :=
  ∀ s : State, s.env.agenda = [] → s.requesters.all Requester.quiet = true → step s = .next (s.withEnv (s.env.tick 0))

/-! ### Reset (spec/70_reset_and_hazards.md) -/

/-- R250: power-on; the block does nothing on its own, only time passes. -/
def Obligations.PowerOnState : Prop :=
  State.reset.ctx.Freed ∧ (∀ r, (State.reset.req r).seq = none) ∧ State.reset.history = [] ∧
    step State.reset = .next (State.reset.withEnv (State.reset.env.tick 0))

/-! ### Construction and teardown (spec/43_command_api.md R160 to R162) -/

/-- R161, R101, R105, R251: INIT with every answer `ok`. `early` are the port events of S1 to S4, of whose lock calls nothing is said
(R102, D17), `late` those of S5 to S8 up to the last clock reading. -/
def Obligations.InitConstructsTheContext : Prop :=
  ∀ (s : State) (address : Byte) (backlightOn : Bool) (ws : List WriteAnswer),
    s.absentAlone = true → s.env.allocs.head? = some true → s.env.opens.head? = some true → s.env.creates.head? = some true →
    s.env.writes = List.replicate 22 .ok ++ ws →
      ∃ (t : State) (c2 : Nat) (early late : List Event),
        exec (.init address backlightOn) s = .next t ∧
        t.ctx = { life := .ready, address := address, backlightOn := backlightOn,
                  nextReadyTick := BitVec.ofNat 64 c2 + umax s.cfg.settleFloor s.cfg.delayEntryMode,
                  transportOpen := true, lockExists := true, lockOwner := none } ∧
        s.env.clock ≤ c2 ∧ c2 ≤ t.env.clock ∧
        t.events = s.events ++ [.cmd s.cur (encode s.cfg (.init address backlightOn)).bits24 (s.req s.cur).side, .alloc true,
            .tOpen (busAddress address) s.cfg.i2cSpeed s.cfg.i2cTimeoutMs (s.req s.cur).side true, .lCreate true]
          ++ early ++ late ++ [.now (BitVec.ofNat 64 c2), .release s.cur, .status s.cur (Status.success.code s.cfg)] ∧
        attemptsOf early = (resetWires s.cfg backlightOn).take 6 ∧ wiresOf early = (resetWires s.cfg backlightOn).take 6 ∧
        delaysOf early = [s.cfg.powerOnDelay, s.cfg.enablePulse, s.cfg.initDelay1, s.cfg.enablePulse, s.cfg.initDelay2,
          s.cfg.enablePulse, s.cfg.enableSettle] ∧
        attemptsOf late = (resetWires s.cfg backlightOn).drop 6 ∧ wiresOf late = (resetWires s.cfg backlightOn).drop 6 ∧
        acquiresOf late = List.replicate 4 s.cur ∧ releasesOf late = List.replicate 3 s.cur ∧
        t.expander = lowerInPlace (s.cfg.cmdEntryMode ||| s.cfg.emIncrement) ||| controlNibble s.cfg backlightOn false ∧
        t.requesters = s.requesters ∧ t.mem = s.mem ∧ t.cfg = s.cfg ∧ t.cur = s.cur ∧
        t.env.writes = ws

/-- R161 lines I1, I3, I4, R221, R222: the failures of INIT before the reset sequence, each with its unwinding. -/
def Obligations.InitUnwindsEarlyFailures : Prop :=
  ∀ (s : State) (address : Byte) (backlightOn : Bool), s.absentAlone = true →
    (s.env.allocs.head? = some false →
      ∃ t, exec (.init address backlightOn) s = .next t ∧ t.ctx.Freed ∧ t.expander = s.expander ∧
        t.events = s.events ++ [.cmd s.cur (encode s.cfg (.init address backlightOn)).bits24 (s.req s.cur).side, .alloc false,
          .status s.cur (Status.allocationFailure.code s.cfg)] ∧ t.requesters = s.requesters ∧ t.mem = s.mem) ∧
    (s.env.allocs.head? = some true → s.env.opens.head? = some false →
      ∃ t, exec (.init address backlightOn) s = .next t ∧ t.ctx.Freed ∧ t.expander = s.expander ∧
        t.events = s.events ++ [.cmd s.cur (encode s.cfg (.init address backlightOn)).bits24 (s.req s.cur).side, .alloc true,
          .tOpen (busAddress address) s.cfg.i2cSpeed s.cfg.i2cTimeoutMs (s.req s.cur).side false,
          .status s.cur (Status.backendOpenFailure.code s.cfg)] ∧ t.requesters = s.requesters ∧ t.mem = s.mem) ∧
    (s.env.allocs.head? = some true → s.env.opens.head? = some true → s.env.creates.head? = some false →
      ∃ t, exec (.init address backlightOn) s = .next t ∧ t.ctx.Freed ∧ t.expander = s.expander ∧
        t.events = s.events ++ [.cmd s.cur (encode s.cfg (.init address backlightOn)).bits24 (s.req s.cur).side, .alloc true,
          .tOpen (busAddress address) s.cfg.i2cSpeed s.cfg.i2cTimeoutMs (s.req s.cur).side true, .lCreate false, .tClose,
          .status s.cur (Status.allocationFailure.code s.cfg)] ∧ t.requesters = s.requesters ∧ t.mem = s.mem)

/-- R104, R161 line I5, R224, R252: a raw write of the reset sequence fails; INIT unwinds "transport, then lock, then memory". -/
def Obligations.InitUnwindsAFailedResetSequence : Prop :=
  ∀ (s : State) (address : Byte) (backlightOn : Bool) (k : Nat) (a : WriteAnswer) (ws : List WriteAnswer),
    s.absentAlone = true → s.env.allocs.head? = some true → s.env.opens.head? = some true → s.env.creates.head? = some true →
    k < 22 → s.env.writes = List.replicate k .ok ++ a :: ws → a.isOk = false →
      ∃ (t : State) (mid : List Event),
        exec (.init address backlightOn) s = .next t ∧ t.ctx.Freed ∧
        t.events = s.events ++ [.cmd s.cur (encode s.cfg (.init address backlightOn)).bits24 (s.req s.cur).side, .alloc true,
            .tOpen (busAddress address) s.cfg.i2cSpeed s.cfg.i2cTimeoutMs (s.req s.cur).side true, .lCreate true]
          ++ mid ++ [.tClose, .lDestroy, .status s.cur (Status.initSequenceFailure.code s.cfg)] ∧
        attemptsOf mid = (resetWires s.cfg backlightOn).take (k + 1) ∧
        wiresOf mid = (resetWires s.cfg backlightOn).take k ∧
        t.expander = outputsAt s.expander (resetWires s.cfg backlightOn) k a ∧
        releasesOf mid = acquiresOf mid ∧ t.requesters = s.requesters ∧ t.mem = s.mem

/-- R160: a host command other than INIT has no meaning unless the context is Ready. For the rows of formats K and W, of which R160 does
not speak, that they too are admitted only where the context is Ready is the model's choice (log 15). -/
def Obligations.CommandsAreRefusedUnlessReady : Prop :=
  ∀ (s : State) (i : Instr), s.cur < s.requesters.length → s.cfg.legal = true → (s.req s.cur).seq = none →
    i.wellFormed = true → (∀ address backlightOn, i ≠ .init address backlightOn) → s.ctx.life ≠ .ready →
      exec i s = .refused .notReady

/-- R160, R161: INIT has no meaning unless the context is Absent. -/
def Obligations.InitIsRefusedUnlessAbsent : Prop :=
  ∀ (s : State) (address : Byte) (backlightOn : Bool), s.cur < s.requesters.length → s.cfg.legal = true →
    (s.req s.cur).seq = none → s.ctx.life ≠ .absent → exec (.init address backlightOn) s = .refused .notAbsent

/-- R162: DEINIT closes the transport, destroys the lock, frees the context, and sends nothing to the display; a second one is
refused; so is one while another requester has a command in progress or while the lock is held. -/
def Obligations.DeinitFreesTheContext : Prop :=
  (∀ s : State, s.readyAlone = true →
    ∃ t, exec .deinit s = .next t ∧ t.ctx.Freed ∧ t.expander = s.expander ∧
      t.events = s.events ++ [.cmd s.cur 0x010000 (s.req s.cur).side, .tClose, .lDestroy, .status s.cur (Status.success.code s.cfg)] ∧
      t.env.writes = s.env.writes ∧ Unchanged s t ∧ exec .deinit t = .refused .notReady) ∧
  (∀ s : State, s.cur < s.requesters.length → s.cfg.legal = true → (s.req s.cur).seq = none → s.ctx.life = .ready →
    ((∃ r, r ≠ s.cur ∧ r < s.requesters.length ∧ (s.req r).seq.isSome = true) ∨ s.ctx.lockOwner.isSome = true) →
      exec .deinit s = .refused .deinitWhileBusy)

/-! ### Commands that are one byte write (spec/43_command_api.md R163 to R168, R170) -/

/-- R163, R164: CLEAR and HOME. -/
def Obligations.ClearAndHomeSendTheirByte : Prop :=
  ∀ s : State, s.readyAlone = true →
    SendsByte s .clear false s.cfg.cmdClear s.cfg.delayClear ∧ SendsByte s .home false s.cfg.cmdHome s.cfg.delayHome

/-- R59: two CLEARs in succession send the same four wire bytes twice and change no context field but the tick. -/
def Obligations.ClearTwiceSendsTheSameBytes : Prop :=
  ∀ (s : State) (ws : List WriteAnswer), s.readyAlone = true → s.env.writes = List.replicate 8 .ok ++ ws →
    ∃ t u, exec .clear s = .next t ∧ exec .clear t = .next u ∧
      attemptsOf u.events = attemptsOf s.events ++ wireBytes s.cfg s.ctx.backlightOn false s.cfg.cmdClear
        ++ wireBytes s.cfg s.ctx.backlightOn false s.cfg.cmdClear ∧
      u.ctx = { s.ctx with nextReadyTick := u.ctx.nextReadyTick }

/-- R165, R166, R168: SETDISPLAY, SETENTRYMODE, SCROLL, with the byte built by OR-ing the enabled flag bits. -/
def Obligations.FlagCommandsSendTheirByte : Prop :=
  ∀ (s : State) (x y z : Bool), s.readyAlone = true →
    SendsByte s (.setDisplay x y z) false
      (s.cfg.cmdDisplayControl ||| (if x then s.cfg.dcDisplay else 0) ||| (if y then s.cfg.dcCursor else 0)
        ||| (if z then s.cfg.dcBlink else 0)) s.cfg.delayDisplayControl ∧
    SendsByte s (.setEntryMode x y) false
      (s.cfg.cmdEntryMode ||| (if x then s.cfg.emIncrement else 0) ||| (if y then s.cfg.emShift else 0))
      s.cfg.delayEntryMode ∧
    SendsByte s (.scroll x y) false
      (s.cfg.cmdShift ||| (if x then s.cfg.shDisplay else 0) ||| (if y then s.cfg.shRight else 0)) s.cfg.delayShift

/-- R167: SETCURSOR at a valid position sends set-DDRAM-addr; out of range it returns InvalidArgument with no lock, clock or
transport event and no state changed. -/
def Obligations.SetCursorSendsTheAddressOrRejects : Prop :=
  ∀ (s : State) (row column : Byte), s.readyAlone = true →
    (row.toNat < s.cfg.rowCount → column.toNat < s.cfg.columnCount →
      SendsByte s (.setCursor row column) false (s.cfg.cmdSetDdram ||| (column + s.cfg.rowOffset row.toNat)) s.cfg.delaySetDdram) ∧
    (s.cfg.rowCount ≤ row.toNat ∨ s.cfg.columnCount ≤ column.toNat →
      ∃ t, exec (.setCursor row column) s = .next t ∧ t.ctx = s.ctx ∧ t.expander = s.expander ∧
        t.events = s.events ++ [.cmd s.cur (encode s.cfg (.setCursor row column)).bits24 (s.req s.cur).side,
          .status s.cur (Status.invalidArgument.code s.cfg)] ∧ t.env.writes = s.env.writes ∧ Unchanged s t)

/-- R52, R167, R6: in a legal configuration the address sum of a valid position does not wrap and fits the 7-bit field. -/
def Obligations.CursorAddressFitsSevenBits : Prop :=
  ∀ (c : Config) (row column : Byte), c.legal = true → cursorInRange c row column = true →
    (ddramAddress c row column).toNat = column.toNat + (c.rowOffset row.toNat).toNat ∧ (ddramAddress c row column).toNat ≤ 0x7F

/-- R170: WRITECHAR sends its character unchanged with RS set. -/
def Obligations.WriteCharSendsTheCharacter : Prop :=
  ∀ (s : State) (c : Byte), s.readyAlone = true → SendsByte s (.writeChar c) true c s.cfg.delayData

/-- R74, R80, R83, R144: the command bytes as the encoder's own operations, the "x" bits always sent as 0 (log 15). -/
def Obligations.CommandBytesAreSent : Prop :=
  ∀ s : State, s.readyAlone = true →
    SendsByte s .kClear false s.cfg.cmdClear s.cfg.delayClear ∧
    (∀ x, SendsByte s (.kHome x) false s.cfg.cmdHome s.cfg.delayHome) ∧
    (∀ i h, SendsByte s (.kEntryModeSet i h) false (entryModeByte s.cfg i h) s.cfg.delayEntryMode) ∧
    (∀ d c b, SendsByte s (.kDisplayControl d c b) false (displayControlByte s.cfg d c b) s.cfg.delayDisplayControl) ∧
    (∀ h r x, SendsByte s (.kShift h r x) false (shiftByte s.cfg h r) s.cfg.delayShift) ∧
    (∀ x, SendsByte s (.kFunctionSet false true false x) false (s.cfg.cmdFunctionSet ||| s.cfg.fs2Line) s.cfg.delayFunctionSet) ∧
    (∀ a, SendsByte s (.kSetDdramAddr a) false (s.cfg.cmdSetDdram ||| a.zeroExtend 8) s.cfg.delaySetDdram)

/-- R53, R80, U23: set-CGRAM-addr, and function-set with other flags than L = 0, N = 1, F = 0, are never emitted; the spec says no more
of them, and that they are refused by name when they are run as instructions is the model's treatment (log 15). The values 0x29 to
0x2B, which differ from 0x28 in ignored bits only, are not among them. -/
def Obligations.NeverEmittedBytesAreRefused : Prop :=
  (∀ (a : BitVec 6) (s : State), exec (.kSetCgramAddr a) s = .refused .neverEmitted) ∧
  (∀ (l n f : Bool) (x : BitVec 2) (s : State), (l, n, f) ≠ (false, true, false) →
    exec (.kFunctionSet l n f x) s = .refused .neverEmitted)

/-- R122: a nibble transfer, whichever command it belongs to: the write with the enable bit set, the pulse, the write with it cleared;
at a failing write it ends, and the rest of its command is what `raiseTransfer` leaves. -/
def Obligations.NibbleIsTwoRawWrites : Prop :=
  ∀ (s : State) (r : Nat) (p : Progress) (n : Nibble) (inByte : Bool) (rest : List Line),
    (s.req r).seq = some p → s.ctx.transportOpen = true →
    p.todo = .nibbleWrite n true inByte :: .delay s.cfg.enablePulse :: .nibbleWrite n false inByte :: rest →
      (∀ ws, s.env.writes = .ok :: .ok :: ws →
        (State.runLines 3 r s).events = s.events ++ [.tWrite (nibbleInPlace n ||| p.ctl ||| s.cfg.enBit) true,
          .delay s.cfg.enablePulse, .tWrite (nibbleInPlace n ||| p.ctl) true] ∧
        ((State.runLines 3 r s).req r).seq = some { p with todo := rest } ∧
        (State.runLines 3 r s).ctx = s.ctx ∧ (State.runLines 3 r s).expander = nibbleInPlace n ||| p.ctl) ∧
      (∀ a ws, s.env.writes = a :: ws → a.isOk = false →
        (State.runLines 1 r s).events = s.events ++ [.tWrite (nibbleInPlace n ||| p.ctl ||| s.cfg.enBit) false] ∧
        ((State.runLines 1 r s).req r).seq.map Progress.todo =
          some ((if inByte then [.invalidate, .release] else []) ++ abortLines p.cmd) ∧
        (State.runLines 1 r s).ctx = s.ctx) ∧
      (∀ a ws, s.env.writes = .ok :: a :: ws → a.isOk = false →
        (State.runLines 3 r s).events = s.events ++ [.tWrite (nibbleInPlace n ||| p.ctl ||| s.cfg.enBit) true,
          .delay s.cfg.enablePulse, .tWrite (nibbleInPlace n ||| p.ctl) false] ∧
        ((State.runLines 3 r s).req r).seq.map Progress.todo =
          some ((if inByte then [.invalidate, .release] else []) ++ abortLines p.cmd) ∧
        (State.runLines 3 r s).ctx = s.ctx)

/-- R123, R125: a byte write, whichever command it belongs to (a character of a string, a byte of the reset sequence): its lines when
nothing fails, and when the raw write with index `k` fails. -/
def Obligations.ByteWriteRunsOrAborts : Prop :=
  ∀ (s : State) (r : Nat) (p : Progress) (isData : Bool) (b : Byte) (d : Tick) (rest : List Line),
    (s.req r).seq = some p → p.todo = byteLines s.cfg isData b d ++ rest →
    s.ctx.transportOpen = true → s.ctx.lockExists = true → s.ctx.lockOwner = none →
      (∀ ws, s.env.writes = .ok :: .ok :: .ok :: .ok :: ws →
        ∃ c1 c2 : Nat, s.env.clock ≤ c1 ∧ c1 ≤ c2 ∧
          (State.runLines 14 r s).events = s.events ++ [.acquire r, .now (BitVec.ofNat 64 c1)] ++ waitEvents s (BitVec.ofNat 64 c1)
            ++ transferEvents s.cfg s.ctx.backlightOn isData b ++ [.now (BitVec.ofNat 64 c2), .release r] ∧
          (State.runLines 14 r s).ctx = { s.ctx with nextReadyTick := BitVec.ofNat 64 c2 + umax s.cfg.settleFloor d } ∧
          ((State.runLines 14 r s).req r).seq.map Progress.todo = some rest) ∧
      (∀ (k : Nat) (a : WriteAnswer) (ws : List WriteAnswer), k < 4 → s.env.writes = List.replicate k .ok ++ a :: ws → a.isOk = false →
        ∃ c1 : Nat, s.env.clock ≤ c1 ∧
          (State.runLines (2 * k + 7) r s).events = s.events ++ [.acquire r, .now (BitVec.ofNat 64 c1)]
            ++ waitEvents s (BitVec.ofNat 64 c1) ++ failedTransferEvents s.cfg s.ctx.backlightOn isData b k ++ [.release r] ∧
          (State.runLines (2 * k + 7) r s).ctx = { s.ctx with nextReadyTick := 0 } ∧
          ((State.runLines (2 * k + 7) r s).req r).seq.map Progress.todo = some (abortLines p.cmd))

/-- R30, R143, R228, R264: nothing is sticky after a failure; the next command starts normally and does not wait. -/
def Obligations.NextCommandAfterAFailureDoesNotWait : Prop :=
  ∀ (s : State) (i : Instr) (isData : Bool) (b : Byte) (d : Tick) (k : Nat) (a : WriteAnswer) (ws : List WriteAnswer),
    s.readyAlone = true → byteOf s.cfg i = some (isData, b, d) → k < 4 → s.env.writes = List.replicate k .ok ++ a :: ws →
    a.isOk = false → ∃ t, exec i s = .next t ∧ t.readyAlone = true ∧ ∀ now, waitFor t now = none

/-! ### The backlight (R169) -/

/-- R169: SETBACKLIGHT stores the flag under the lock and sends nothing. -/
def Obligations.SetBacklightStoresTheFlag : Prop :=
  ∀ (s : State) (enable : Bool), s.readyAlone = true →
    ∃ t, exec (.setBacklight enable) s = .next t ∧ t.ctx = { s.ctx with backlightOn := enable } ∧ t.expander = s.expander ∧
      t.events = s.events ++ [.cmd s.cur (encode s.cfg (.setBacklight enable)).bits24 (s.req s.cur).side, .acquire s.cur,
        .release s.cur, .status s.cur (Status.success.code s.cfg)] ∧ t.env.writes = s.env.writes ∧ Unchanged s t

/-- R128, R257: the new backlight value is carried by the four wire bytes of the next byte write, whichever command sends it. -/
def Obligations.BacklightTakesEffectOnTheNextByte : Prop :=
  ∀ (s : State) (enable : Bool) (i : Instr) (isData : Bool) (b : Byte) (d : Tick) (ws : List WriteAnswer),
    s.readyAlone = true → byteOf s.cfg i = some (isData, b, d) → s.env.writes = .ok :: .ok :: .ok :: .ok :: ws →
      ∃ t u, exec (.setBacklight enable) s = .next t ∧ exec i t = .next u ∧
        attemptsOf t.events = attemptsOf s.events ∧
        attemptsOf u.events = attemptsOf s.events ++ wireBytes s.cfg enable isData b

/-! ### Strings (R171) -/

/-- R171: WRITESTRING sends the bytes before the terminator or the cap in order, one lock hold for each, and reads one byte more
unless the cap is reached; at the first raw write that fails it stops and returns TransferFailure, the characters before it stay
written and the ones after it are not read; an empty string makes one read and no event on the lock, the clock or the transport. -/
def Obligations.WriteStringSendsTheString : Prop :=
  ∀ (s : State) (saddr : BitVec 16), s.readyAlone = true →
    (s.env.writes.take (4 * (stringSent s saddr).length) = List.replicate (4 * (stringSent s saddr).length) .ok →
      ∃ (t : State) (es : List Event),
        exec (.writeString saddr) s = .next t ∧ t.events = s.events ++ es ∧
        attemptsOf es = stringWires s (stringSent s saddr) ∧ wiresOf es = stringWires s (stringSent s saddr) ∧
        readsOf es = (List.range (min ((stringSent s saddr).length + 1) s.cfg.stringCap)).map (stringAddress saddr) ∧
        acquiresOf es = List.replicate (stringSent s saddr).length s.cur ∧
        releasesOf es = List.replicate (stringSent s saddr).length s.cur ∧
        statusesOf es = [(s.cur, (Status.success.code s.cfg))] ∧
        t.ctx = { s.ctx with nextReadyTick := t.ctx.nextReadyTick } ∧ Unchanged s t) ∧
    (∀ (k : Nat) (a : WriteAnswer) (ws : List WriteAnswer), k < 4 * (stringSent s saddr).length →
      s.env.writes = List.replicate k .ok ++ a :: ws → a.isOk = false →
      ∃ (t : State) (es : List Event),
        exec (.writeString saddr) s = .next t ∧ t.events = s.events ++ es ∧
        attemptsOf es = (stringWires s (stringSent s saddr)).take (k + 1) ∧
        wiresOf es = (stringWires s (stringSent s saddr)).take k ∧
        readsOf es = (List.range (k / 4 + 1)).map (stringAddress saddr) ∧
        statusesOf es = [(s.cur, (Status.transferFailure.code s.cfg))] ∧
        t.ctx = { s.ctx with nextReadyTick := 0 } ∧ Unchanged s t) ∧
    (1 ≤ s.cfg.stringCap → Memory.read s.mem saddr.toNat = s.cfg.stringTerminator →
      ∃ t, exec (.writeString saddr) s = .next t ∧ t.ctx = s.ctx ∧ t.expander = s.expander ∧
        t.events = s.events ++ [.cmd s.cur (encode s.cfg (.writeString saddr)).bits24 (s.req s.cur).side,
          .memRead saddr s.cfg.stringTerminator, .status s.cur (Status.success.code s.cfg)] ∧ Unchanged s t)

/-- R63, R171: a string byte has the value present when its turn comes; what follows is the end of the command at the terminator,
else one character and, below the cap, the next read. -/
def Obligations.StringByteIsReadAtItsTurn : Prop :=
  ∀ (s : State) (r : Nat) (p : Progress) (saddr : BitVec 16) (i : Nat) (v : Byte),
    (s.req r).seq = some p → p.todo = [.readString saddr i] → Memory.read s.mem (saddr + BitVec.ofNat 16 i).toNat = v →
      (s.perform r).events = s.events ++ [.memRead (saddr + BitVec.ofNat 16 i) v] ∧
      (s.perform r).ctx = s.ctx ∧ (s.perform r).mem = s.mem ∧
      ((s.perform r).req r).seq = some (Progress.mk p.cmd
        (if v = s.cfg.stringTerminator then [.ret .success]
         else byteLines s.cfg true v s.cfg.delayData ++
          (if i + 1 < s.cfg.stringCap then [.readString saddr (i + 1)] else [.ret .success])) p.ctl p.t p.t2)

/-! ### The wire (R71 to R73, R126, R127) -/

/-- R10, R71, R193, U7: the wire byte as the port primitive `TWrite`; a failed write may or may not have changed the outputs. -/
def Obligations.WireByteIsOneRawWrite : Prop :=
  ∀ (s : State) (value : Nibble) (backlight enable rs : Bool) (a : WriteAnswer) (ws : List WriteAnswer),
    s.readyAlone = true → s.env.writes = a :: ws →
      ∃ t, exec (.wireByte value backlight enable rs) s = .next t ∧ t.ctx = s.ctx ∧
        t.events = s.events ++ [.tWrite (wireByteOf s.cfg value backlight enable rs) a.isOk] ∧
        t.expander = outputsAfter s.expander (wireByteOf s.cfg value backlight enable rs) a ∧
        t.env.writes = ws ∧ Unchanged s t

/-- R126: the four wire bytes of a completed byte write, whichever command sends it. -/
def Obligations.ByteWriteHasTheShapeOfTwoNibbles : Prop :=
  ∀ (s : State) (i : Instr) (isData : Bool) (b : Byte) (d : Tick) (ws : List WriteAnswer),
    s.readyAlone = true → byteOf s.cfg i = some (isData, b, d) → s.env.writes = .ok :: .ok :: .ok :: .ok :: ws →
    ∃ (t : State) (w1 w2 w3 w4 : Byte), exec i s = .next t ∧ attemptsOf t.events = attemptsOf s.events ++ [w1, w2, w3, w4] ∧
      w1 &&& s.cfg.enBit ≠ 0 ∧ w2 = w1 &&& ~~~s.cfg.enBit ∧ w3 &&& s.cfg.enBit ≠ 0 ∧ w4 = w3 &&& ~~~s.cfg.enBit ∧
      upperNibble w1 = upperNibble b ∧ upperNibble w3 = lowerNibble b ∧
      ∀ w ∈ [w1, w2, w3, w4], registerSelect s.cfg w = isData ∧ w &&& s.cfg.rwBit = 0 ∧
        (w &&& s.cfg.backlightBit != 0) = s.ctx.backlightOn

/-- R127: the observer latches the two nibbles of a byte write, and a controller in 4-bit mode pairs them into the byte. The pairing
(`assembled`) is the spec's general knowledge (G6), and the observer is no part of the block (log 11). -/
def Obligations.ObserverSeesTheByte : Prop :=
  ∀ (c : Config) (backlight isData : Bool) (b : Byte), c.legal = true →
    latches c (wireBytes c backlight isData b) = [(upperNibble b, isData), (lowerNibble b, isData)] ∧
    assembled (latches c (wireBytes c backlight isData b)) = [(b, isData)]

/-- R105, R127: the observer latches 3, 3, 2 and then the nibbles of the four command bytes of the reset sequence. The pairing of the
nibbles into bytes (`assembled`) is the spec's general knowledge (G6), and the observer is no part of the block (log 11). -/
def Obligations.ObserverSeesTheResetSequence : Prop :=
  ∀ (c : Config) (backlight : Bool), c.legal = true →
    (latches c (resetWires c backlight)).take 3 = [(3, false), (3, false), (2, false)] ∧
    assembled ((latches c (resetWires c backlight)).drop 3) =
      [(c.cmdFunctionSet ||| c.fs2Line, false), (c.cmdDisplayControl ||| c.dcDisplay, false), (c.cmdClear, false),
       (c.cmdEntryMode ||| c.emIncrement, false)]

/-! ### The scheduler (spec/42_scheduler.md) -/

/-- R141: WAIT reads the clock once; it requests no delay when the tick is not later than the reading, and the difference, never more
than the cap, when it is. -/
def Obligations.WaitDelaysAtMostOnce : Prop :=
  ∀ (s : State) (r : Nat) (p : Progress) (rest : List Line),
    (s.req r).seq = some p → p.todo = .readClock :: .waitReady :: rest →
      (s.ctx.nextReadyTick.toNat ≤ s.nowValue.toNat → (State.runLines 2 r s).events = s.events ++ [.now s.nowValue]) ∧
      (s.nowValue.toNat < s.ctx.nextReadyTick.toNat →
        ∃ w : Tick, (State.runLines 2 r s).events = s.events ++ [.now s.nowValue, .delay w] ∧
          w.toNat = min (s.ctx.nextReadyTick.toNat - s.nowValue.toNat) s.cfg.maxWait.toNat) ∧
      (State.runLines 2 r s).ctx = s.ctx ∧ ((State.runLines 2 r s).req r).seq.map Progress.todo = some rest

/-- R142: RECORD reads the clock and stores the reading plus the larger of the floor and the delay, modulo 2^64; it changes nothing
else of the context and blocks for nothing. -/
def Obligations.RecordStoresTheTick : Prop :=
  ∀ (s : State) (r : Nat) (p : Progress) (rest : List Line) (d : Tick),
    (s.req r).seq = some p → p.todo = .readClockAgain :: .recordTick d :: rest →
      (State.runLines 2 r s).ctx.nextReadyTick.toNat = (s.nowValue.toNat + max s.cfg.settleFloor.toNat d.toNat) % 2 ^ 64 ∧
      (State.runLines 2 r s).ctx = { s.ctx with nextReadyTick := (State.runLines 2 r s).ctx.nextReadyTick } ∧
      (State.runLines 2 r s).events = s.events ++ [.now s.nowValue] ∧
      ((State.runLines 2 r s).req r).seq.map Progress.todo = some rest

/-- R141, R147, R7: the raw writes of a byte write start no earlier than the recorded delay of the byte write before it, by whichever
requester, counted from the clock reading taken after that byte's fourth raw write; `s1` is any later state of the same context.
The premises are the configuration's legality (in readyAlone) and a clock below 2^64 (D27). -/
def Obligations.BytesAreSpacedByTheRecordedDelay : Prop :=
  ∀ (s t s1 u : State) (i j : Instr) (isData isData' : Bool) (b b' : Byte) (d d' : Tick) (ws : List WriteAnswer),
    s.readyAlone = true → byteOf s.cfg i = some (isData, b, d) → s.env.writes = .ok :: .ok :: .ok :: .ok :: ws →
    exec i s = .next t →
    s1.readyAlone = true → s1.cfg = t.cfg → s1.ctx = t.ctx → t.env.clock ≤ s1.env.clock →
    byteOf s1.cfg j = some (isData', b', d') → exec j s1 = .next u → u.env.clock + s.cfg.maxWait.toNat < 2 ^ 64 →
      ∃ c2 : Nat, Event.now (BitVec.ofNat 64 c2) ∈ t.events ∧
        (∀ e ∈ t.history.drop s.history.length, e.event.attempted.isSome = true → e.finish ≤ c2) ∧
        (∀ e ∈ u.history.drop s1.history.length, e.event.attempted.isSome = true →
          c2 + (umax s.cfg.settleFloor d).toNat ≤ e.start)

/-- R146: over a byte write that does not fail the tick does not decrease. -/
def Obligations.TickDoesNotDecreaseWhileHealthy : Prop :=
  ∀ (s t : State) (i : Instr) (isData : Bool) (b : Byte) (d : Tick) (ws : List WriteAnswer),
    s.readyAlone = true → TickWithinCap s → byteOf s.cfg i = some (isData, b, d) →
    s.env.writes = .ok :: .ok :: .ok :: .ok :: ws → exec i s = .next t → t.env.clock + s.cfg.maxWait.toNat < 2 ^ 64 →
      s.ctx.nextReadyTick.toNat ≤ t.ctx.nextReadyTick.toNat

/-- R7, R148: every step keeps the tick within one cap of the clock. -/
def Obligations.TickStaysWithinCap : Prop := ∀ s t : State, TickWithinCap s → step s = .next t → TickWithinCap t

/-- R7: the tick is within one cap of the clock at power-on. It rests on the model's choice that the tick, which has no value before
INIT, holds 0 (log 1). -/
def Obligations.TickWithinCapAtPowerOn : Prop := TickWithinCap State.reset

/-! ### The lock (R25, R61, R64, R128, R129, R235) -/

/-- R25, R196: a requester at `Acquire` has no step while another owns the lock. That a turn laid down for it is passed over is the
model's choice (log 10), and that running its command all the same is the fault waitsForLock is its inference (log 17). -/
def Obligations.AcquireWaitsForTheOwner : Prop :=
  ∀ (s : State) (r r' : Nat) (p : Progress) (rest : List Line), (s.req r).seq = some p → p.todo = .acquire :: rest →
    s.ctx.lockExists = true → s.ctx.lockOwner = some r' →
      s.hasStep r = false ∧
      (∀ moves, s.env.agenda = .run r :: moves → step s = .next (s.withEnv { s.env with agenda := moves })) ∧
      (p.cmd.wellFormed = true → exec p.cmd (s.withCur r) = .fault .waitsForLock)

/-- R61, R196: a free lock may be granted to whichever requester waits for it; no order is imposed. -/
def Obligations.EveryGrantOrderIsAdmitted : Prop :=
  ∀ (s : State) (r : Nat) (p : Progress) (rest : List Line) (moves : List Move),
    (s.req r).seq = some p → p.todo = .acquire :: rest → p.cmd.wellFormed = true →
    s.ctx.lockExists = true → s.ctx.lockOwner = none → s.env.agenda = .run r :: moves →
      ∃ t, step s = .next t ∧ acquiresOf s.events ++ [r] <+: acquiresOf t.events

/-- R25, R26, R64, R125, R235: every step keeps the lock discipline. -/
def Obligations.LockDisciplineIsKept : Prop := ∀ s t : State, LockDiscipline s → step s = .next t → LockDiscipline t

/-- R250: the lock discipline holds at power-on. -/
def Obligations.LockDisciplineAtPowerOn : Prop := LockDiscipline State.reset

/-- R58, R61: while a requester owns the lock, no other requester's step makes a raw write. -/
def Obligations.RawWritesBelongToTheOwner : Prop :=
  ∀ (s t : State) (r : Nat), LockDiscipline s → s.ctx.lockOwner = some r → step s = .next t →
    attemptsOf t.events ≠ attemptsOf s.events → t.cur = r

/-- R22, R128: while a byte write is in progress, no step changes the backlight flag. -/
def Obligations.BacklightIsConstantWithinAByte : Prop :=
  ∀ (s t : State) (r : Nat) (i : Instr), LockDiscipline s → s.ctx.lockOwner = some r → s.inProgress r = some i →
    i.lifecycle = false → i.setsBacklight = false → step s = .next t → t.ctx.backlightOn = s.ctx.backlightOn

/-- R33, R21: no command but INIT and DEINIT changes the address, the handles or the lifecycle state; the backlight is changed by
SETBACKLIGHT besides. -/
def Obligations.OnlyLifecycleCommandsTouchTheHandles : Prop :=
  ∀ (s t : State) (i : Instr), LockDiscipline s → i.lifecycle = false → exec i s = .next t →
    t.ctx.address = s.ctx.address ∧ t.ctx.transportOpen = s.ctx.transportOpen ∧ t.ctx.lockExists = s.ctx.lockExists ∧
      t.ctx.life = s.ctx.life ∧ (i.setsBacklight = false → t.ctx.backlightOn = s.ctx.backlightOn)

/-! ### Whole-machine rules -/

/-- R268, R64, R125: a host command that runs alone, INIT from Absent and every other from Ready, ends whatever the environment
answers: its one status is returned, its requester is idle, and the lock is free. -/
def Obligations.EveryCommandReturns : Prop :=
  ∀ (s : State) (i : Instr), i.isHost = true →
    (s.readyAlone = true ∧ ∀ address backlightOn, i ≠ .init address backlightOn) ∨
      (s.absentAlone = true ∧ s.ctx.lockOwner = none ∧ ∃ address backlightOn, i = .init address backlightOn) →
    ∃ t, exec i s = .next t ∧ (t.req s.cur).seq = none ∧ t.ctx.lockOwner = none ∧
      ∃ code, statusesOf t.events = statusesOf s.events ++ [(s.cur, code)]

/-- R72, R80, R126: every step keeps the read/write line clear in all raw writes. -/
def Obligations.ReadWriteLineStaysClear : Prop := ∀ s t : State, ReadWriteNeverSet s → step s = .next t → ReadWriteNeverSet t

/-- R72, R80: no raw write has set the read/write line at power-on. -/
def Obligations.ReadWriteClearAtPowerOn : Prop := ReadWriteNeverSet State.reset

/-- R10, R51, R201: the block writes no host memory, which only the host's own stores change; every step keeps its canonical form
(the form is the model's, log 2), the configuration and the number of requesters. -/
def Obligations.BlockWritesNoMemory : Prop :=
  ∀ s t : State, step s = .next t →
    t.cfg = s.cfg ∧ t.requesters.length = s.requesters.length ∧ (Memory.wf s.mem = true → Memory.wf t.mem = true) ∧
    (t.mem = s.mem ∨ ∃ addr value moves, s.env.agenda = .store addr value :: moves ∧
      ∀ a, Memory.wf s.mem = true → Memory.read t.mem a = if a = addr.toNat then value else Memory.read s.mem a)

/-- R197, R199: no step turns the clock back or takes an event out of the history. -/
def Obligations.ClockAndHistoryOnlyGrow : Prop :=
  ∀ s t : State, step s = .next t → s.env.clock ≤ t.env.clock ∧ s.history <+: t.history

/-! ### Steps and commands (R8, R10, R83) -/

/-- R8, R10: "One port event is one atomic step": no step makes more than one. -/
def Obligations.StepMakesAtMostOnePortEvent : Prop :=
  ∀ s t : State, step s = .next t → t.history = s.history ∨ ∃ e, t.history = s.history ++ [e]

/-- R8, R27: what `exec` answers for a whole command run alone is where the machine gets by its steps, one line each, from the arrival
of that command; the two states differ in `grain` only, the model's own field (log 3). -/
def Obligations.WholeCommandIsItsSteps : Prop :=
  ∀ (s t : State) (i : Instr), s.quietStart = true → exec i s = .next t →
    ∃ (u : State) (n : Nat), exec i s.byLine = .next u ∧ Steps n u t.byLine

/-- R83: an internal operation laid down for an idle requester runs as an instruction of its own, by its arrival, and takes nothing from
the command port. That it may stand by itself is the model's choice (log 15). -/
def Obligations.StepRunsAnInnerOperation : Prop :=
  ∀ (s : State) (r : Nat) (w : InnerWord) (i : Instr) (moves : List Move),
    s.env.agenda = .inner r w :: moves → (s.req r).seq = none → decode s.cfg w.word = .ok i →
      i.isHost = false ∧ step s = exec i ((s.withEnv { s.env with agenda := moves }).withCur r).byLine

/-! ### Parameters (R6) -/

/-- R71, R6: wherever the four lines are, the wire byte sent for a wire word is that word. -/
def Obligations.WireByteSentIsTheWord : Prop :=
  ∀ (c : Config) (v : Byte) (value : Nibble) (backlight enable rs : Bool),
    c.legalLines = true → decode c (.wire v) = .ok (.wireByte value backlight enable rs) →
      wireByteOf c value backlight enable rs = v

/-- R74, R75: the byte sent for a command byte is that byte without the bits that neither its opcode nor its flags nor its address use.
The reading of a command byte under opcodes other than the defaults is the model's choice (log 21). -/
def Obligations.CommandByteSentIsTheWord : Prop :=
  ∀ (c : Config) (k : Byte) (i : Instr) (isData : Bool) (b : Byte) (d : Tick),
    c.bitOpcodes = true → decode c (.command k) = .ok i → byteOf c i = some (isData, b, d) → isData = false ∧ b = k &&& usedBits c i

/-- R6, R8: the number of requesters is the parameter `N_REQ`, after every step as before it. -/
def Obligations.RequesterCountIsTheParameter : Prop :=
  ∀ s t : State, s.requesters.length = s.cfg.requesterCount → step s = .next t → t.requesters.length = t.cfg.requesterCount

/-- R6: the number of requesters at reset is the parameter `N_REQ`. -/
def Obligations.RequesterCountAtReset : Prop := State.reset.requesters.length = State.reset.cfg.requesterCount
end

