-- ==== Sys2Proof/Laws/State.lean ====
section
/-! SUPPORT. One lemma per field per update of State, and how the updates meet the requesters. -/

namespace Sys2Proof.Machine

/-! ### withCtx -/

@[simp] theorem State.withCtx_cfg (s : State) (c : Context) : (s.withCtx c).cfg = s.cfg := rfl
@[simp] theorem State.withCtx_ctx (s : State) (c : Context) : (s.withCtx c).ctx = c := rfl
@[simp] theorem State.withCtx_cur (s : State) (c : Context) : (s.withCtx c).cur = s.cur := rfl
@[simp] theorem State.withCtx_requesters (s : State) (c : Context) : (s.withCtx c).requesters = s.requesters := rfl
@[simp] theorem State.withCtx_mem (s : State) (c : Context) : (s.withCtx c).mem = s.mem := rfl
@[simp] theorem State.withCtx_expander (s : State) (c : Context) : (s.withCtx c).expander = s.expander := rfl
@[simp] theorem State.withCtx_env (s : State) (c : Context) : (s.withCtx c).env = s.env := rfl
@[simp] theorem State.withCtx_history (s : State) (c : Context) : (s.withCtx c).history = s.history := rfl

/-! ### withEnv -/

@[simp] theorem State.withEnv_cfg (s : State) (e : Env) : (s.withEnv e).cfg = s.cfg := rfl
@[simp] theorem State.withEnv_ctx (s : State) (e : Env) : (s.withEnv e).ctx = s.ctx := rfl
@[simp] theorem State.withEnv_cur (s : State) (e : Env) : (s.withEnv e).cur = s.cur := rfl
@[simp] theorem State.withEnv_requesters (s : State) (e : Env) : (s.withEnv e).requesters = s.requesters := rfl
@[simp] theorem State.withEnv_mem (s : State) (e : Env) : (s.withEnv e).mem = s.mem := rfl
@[simp] theorem State.withEnv_expander (s : State) (e : Env) : (s.withEnv e).expander = s.expander := rfl
@[simp] theorem State.withEnv_env (s : State) (e : Env) : (s.withEnv e).env = e := rfl
@[simp] theorem State.withEnv_history (s : State) (e : Env) : (s.withEnv e).history = s.history := rfl

/-! ### byLine -/

@[simp] theorem State.byLine_cfg (s : State) : s.byLine.cfg = s.cfg := rfl
@[simp] theorem State.byLine_ctx (s : State) : s.byLine.ctx = s.ctx := rfl
@[simp] theorem State.byLine_cur (s : State) : s.byLine.cur = s.cur := rfl
@[simp] theorem State.byLine_requesters (s : State) : s.byLine.requesters = s.requesters := rfl
@[simp] theorem State.byLine_mem (s : State) : s.byLine.mem = s.mem := rfl
@[simp] theorem State.byLine_expander (s : State) : s.byLine.expander = s.expander := rfl
@[simp] theorem State.byLine_history (s : State) : s.byLine.history = s.history := rfl
@[simp] theorem State.byLine_clock (s : State) : s.byLine.env.clock = s.env.clock := rfl
@[simp] theorem State.byLine_elapsed (s : State) : s.byLine.env.elapsed = s.env.elapsed := rfl
@[simp] theorem State.byLine_allocs (s : State) : s.byLine.env.allocs = s.env.allocs := rfl
@[simp] theorem State.byLine_opens (s : State) : s.byLine.env.opens = s.env.opens := rfl
@[simp] theorem State.byLine_creates (s : State) : s.byLine.env.creates = s.env.creates := rfl
@[simp] theorem State.byLine_writes (s : State) : s.byLine.env.writes = s.env.writes := rfl
@[simp] theorem State.byLine_agenda (s : State) : s.byLine.env.agenda = s.env.agenda := rfl
@[simp] theorem State.byLine_draws (s : State) : s.byLine.env.draws = s.env.draws := rfl
@[simp] theorem State.byLine_grain (s : State) : s.byLine.env.grain = .line := rfl
@[simp] theorem State.byLine_alone (s : State) : s.byLine.alone = false := by simp [State.alone]

/-! ### withMem -/

@[simp] theorem State.withMem_cfg (s : State) (m : List Host.Cell) : (s.withMem m).cfg = s.cfg := rfl
@[simp] theorem State.withMem_ctx (s : State) (m : List Host.Cell) : (s.withMem m).ctx = s.ctx := rfl
@[simp] theorem State.withMem_cur (s : State) (m : List Host.Cell) : (s.withMem m).cur = s.cur := rfl
@[simp] theorem State.withMem_requesters (s : State) (m : List Host.Cell) : (s.withMem m).requesters = s.requesters := rfl
@[simp] theorem State.withMem_mem (s : State) (m : List Host.Cell) : (s.withMem m).mem = m := rfl
@[simp] theorem State.withMem_expander (s : State) (m : List Host.Cell) : (s.withMem m).expander = s.expander := rfl
@[simp] theorem State.withMem_env (s : State) (m : List Host.Cell) : (s.withMem m).env = s.env := rfl
@[simp] theorem State.withMem_history (s : State) (m : List Host.Cell) : (s.withMem m).history = s.history := rfl

/-! ### withExpander -/

@[simp] theorem State.withExpander_cfg (s : State) (v : Byte) : (s.withExpander v).cfg = s.cfg := rfl
@[simp] theorem State.withExpander_ctx (s : State) (v : Byte) : (s.withExpander v).ctx = s.ctx := rfl
@[simp] theorem State.withExpander_cur (s : State) (v : Byte) : (s.withExpander v).cur = s.cur := rfl
@[simp] theorem State.withExpander_requesters (s : State) (v : Byte) : (s.withExpander v).requesters = s.requesters := rfl
@[simp] theorem State.withExpander_mem (s : State) (v : Byte) : (s.withExpander v).mem = s.mem := rfl
@[simp] theorem State.withExpander_expander (s : State) (v : Byte) : (s.withExpander v).expander = v := rfl
@[simp] theorem State.withExpander_env (s : State) (v : Byte) : (s.withExpander v).env = s.env := rfl
@[simp] theorem State.withExpander_history (s : State) (v : Byte) : (s.withExpander v).history = s.history := rfl

/-! ### withCur -/

@[simp] theorem State.withCur_cfg (s : State) (r : Nat) : (s.withCur r).cfg = s.cfg := rfl
@[simp] theorem State.withCur_ctx (s : State) (r : Nat) : (s.withCur r).ctx = s.ctx := rfl
@[simp] theorem State.withCur_cur (s : State) (r : Nat) : (s.withCur r).cur = r := rfl
@[simp] theorem State.withCur_requesters (s : State) (r : Nat) : (s.withCur r).requesters = s.requesters := rfl
@[simp] theorem State.withCur_mem (s : State) (r : Nat) : (s.withCur r).mem = s.mem := rfl
@[simp] theorem State.withCur_expander (s : State) (r : Nat) : (s.withCur r).expander = s.expander := rfl
@[simp] theorem State.withCur_env (s : State) (r : Nat) : (s.withCur r).env = s.env := rfl
@[simp] theorem State.withCur_history (s : State) (r : Nat) : (s.withCur r).history = s.history := rfl

/-! ### withReq -/

@[simp] theorem State.withReq_cfg (s : State) (r : Nat) (q : Requester) : (s.withReq r q).cfg = s.cfg := rfl
@[simp] theorem State.withReq_ctx (s : State) (r : Nat) (q : Requester) : (s.withReq r q).ctx = s.ctx := rfl
@[simp] theorem State.withReq_cur (s : State) (r : Nat) (q : Requester) : (s.withReq r q).cur = s.cur := rfl
@[simp] theorem State.withReq_requesters (s : State) (r : Nat) (q : Requester) : (s.withReq r q).requesters = s.requesters.set r q := rfl
@[simp] theorem State.withReq_mem (s : State) (r : Nat) (q : Requester) : (s.withReq r q).mem = s.mem := rfl
@[simp] theorem State.withReq_expander (s : State) (r : Nat) (q : Requester) : (s.withReq r q).expander = s.expander := rfl
@[simp] theorem State.withReq_env (s : State) (r : Nat) (q : Requester) : (s.withReq r q).env = s.env := rfl
@[simp] theorem State.withReq_history (s : State) (r : Nat) (q : Requester) : (s.withReq r q).history = s.history := rfl

/-! ### withSeq -/

@[simp] theorem State.withSeq_cfg (s : State) (r : Nat) (p : Option Progress) : (s.withSeq r p).cfg = s.cfg := rfl
@[simp] theorem State.withSeq_ctx (s : State) (r : Nat) (p : Option Progress) : (s.withSeq r p).ctx = s.ctx := rfl
@[simp] theorem State.withSeq_cur (s : State) (r : Nat) (p : Option Progress) : (s.withSeq r p).cur = s.cur := rfl
@[simp] theorem State.withSeq_requesters (s : State) (r : Nat) (p : Option Progress) : (s.withSeq r p).requesters = s.requesters.set r { s.req r with seq := p } := rfl
@[simp] theorem State.withSeq_mem (s : State) (r : Nat) (p : Option Progress) : (s.withSeq r p).mem = s.mem := rfl
@[simp] theorem State.withSeq_expander (s : State) (r : Nat) (p : Option Progress) : (s.withSeq r p).expander = s.expander := rfl
@[simp] theorem State.withSeq_env (s : State) (r : Nat) (p : Option Progress) : (s.withSeq r p).env = s.env := rfl
@[simp] theorem State.withSeq_history (s : State) (r : Nat) (p : Option Progress) : (s.withSeq r p).history = s.history := rfl

/-! ### port -/

@[simp] theorem State.port_cfg (s : State) (n : Nat) (ev : Event) : (s.port n ev).cfg = s.cfg := rfl
@[simp] theorem State.port_ctx (s : State) (n : Nat) (ev : Event) : (s.port n ev).ctx = s.ctx := rfl
@[simp] theorem State.port_cur (s : State) (n : Nat) (ev : Event) : (s.port n ev).cur = s.cur := rfl
@[simp] theorem State.port_requesters (s : State) (n : Nat) (ev : Event) : (s.port n ev).requesters = s.requesters := rfl
@[simp] theorem State.port_mem (s : State) (n : Nat) (ev : Event) : (s.port n ev).mem = s.mem := rfl
@[simp] theorem State.port_expander (s : State) (n : Nat) (ev : Event) : (s.port n ev).expander = s.expander := rfl
@[simp] theorem State.port_env (s : State) (n : Nat) (ev : Event) : (s.port n ev).env = s.env.tick n := rfl
@[simp] theorem State.port_history (s : State) (n : Nat) (ev : Event) : (s.port n ev).history = s.history ++ [{ start := s.env.clock, finish := (s.env.tick n).clock, event := ev }] := rfl

/-! ### withLife -/

@[simp] theorem State.withLife_cfg (s : State) (l : Life) : (s.withLife l).cfg = s.cfg := rfl
@[simp] theorem State.withLife_ctx (s : State) (l : Life) : (s.withLife l).ctx = { s.ctx with life := l } := rfl
@[simp] theorem State.withLife_cur (s : State) (l : Life) : (s.withLife l).cur = s.cur := rfl
@[simp] theorem State.withLife_requesters (s : State) (l : Life) : (s.withLife l).requesters = s.requesters := rfl
@[simp] theorem State.withLife_mem (s : State) (l : Life) : (s.withLife l).mem = s.mem := rfl
@[simp] theorem State.withLife_expander (s : State) (l : Life) : (s.withLife l).expander = s.expander := rfl
@[simp] theorem State.withLife_env (s : State) (l : Life) : (s.withLife l).env = s.env := rfl
@[simp] theorem State.withLife_history (s : State) (l : Life) : (s.withLife l).history = s.history := rfl

/-! ### withDefaults -/

@[simp] theorem State.withDefaults_cfg (s : State) (a : Byte) (b : Bool) : (s.withDefaults a b).cfg = s.cfg := rfl
@[simp] theorem State.withDefaults_ctx (s : State) (a : Byte) (b : Bool) : (s.withDefaults a b).ctx = { s.ctx with address := a, backlightOn := b, nextReadyTick := 0 } := rfl
@[simp] theorem State.withDefaults_cur (s : State) (a : Byte) (b : Bool) : (s.withDefaults a b).cur = s.cur := rfl
@[simp] theorem State.withDefaults_requesters (s : State) (a : Byte) (b : Bool) : (s.withDefaults a b).requesters = s.requesters := rfl
@[simp] theorem State.withDefaults_mem (s : State) (a : Byte) (b : Bool) : (s.withDefaults a b).mem = s.mem := rfl
@[simp] theorem State.withDefaults_expander (s : State) (a : Byte) (b : Bool) : (s.withDefaults a b).expander = s.expander := rfl
@[simp] theorem State.withDefaults_env (s : State) (a : Byte) (b : Bool) : (s.withDefaults a b).env = s.env := rfl
@[simp] theorem State.withDefaults_history (s : State) (a : Byte) (b : Bool) : (s.withDefaults a b).history = s.history := rfl

/-! ### withBacklight -/

@[simp] theorem State.withBacklight_cfg (s : State) (b : Bool) : (s.withBacklight b).cfg = s.cfg := rfl
@[simp] theorem State.withBacklight_ctx (s : State) (b : Bool) : (s.withBacklight b).ctx = { s.ctx with backlightOn := b } := rfl
@[simp] theorem State.withBacklight_cur (s : State) (b : Bool) : (s.withBacklight b).cur = s.cur := rfl
@[simp] theorem State.withBacklight_requesters (s : State) (b : Bool) : (s.withBacklight b).requesters = s.requesters := rfl
@[simp] theorem State.withBacklight_mem (s : State) (b : Bool) : (s.withBacklight b).mem = s.mem := rfl
@[simp] theorem State.withBacklight_expander (s : State) (b : Bool) : (s.withBacklight b).expander = s.expander := rfl
@[simp] theorem State.withBacklight_env (s : State) (b : Bool) : (s.withBacklight b).env = s.env := rfl
@[simp] theorem State.withBacklight_history (s : State) (b : Bool) : (s.withBacklight b).history = s.history := rfl

/-! ### withTick -/

@[simp] theorem State.withTick_cfg (s : State) (t : Tick) : (s.withTick t).cfg = s.cfg := rfl
@[simp] theorem State.withTick_ctx (s : State) (t : Tick) : (s.withTick t).ctx = { s.ctx with nextReadyTick := t } := rfl
@[simp] theorem State.withTick_cur (s : State) (t : Tick) : (s.withTick t).cur = s.cur := rfl
@[simp] theorem State.withTick_requesters (s : State) (t : Tick) : (s.withTick t).requesters = s.requesters := rfl
@[simp] theorem State.withTick_mem (s : State) (t : Tick) : (s.withTick t).mem = s.mem := rfl
@[simp] theorem State.withTick_expander (s : State) (t : Tick) : (s.withTick t).expander = s.expander := rfl
@[simp] theorem State.withTick_env (s : State) (t : Tick) : (s.withTick t).env = s.env := rfl
@[simp] theorem State.withTick_history (s : State) (t : Tick) : (s.withTick t).history = s.history := rfl

/-! ### withTransport -/

@[simp] theorem State.withTransport_cfg (s : State) (b : Bool) : (s.withTransport b).cfg = s.cfg := rfl
@[simp] theorem State.withTransport_ctx (s : State) (b : Bool) : (s.withTransport b).ctx = { s.ctx with transportOpen := b } := rfl
@[simp] theorem State.withTransport_cur (s : State) (b : Bool) : (s.withTransport b).cur = s.cur := rfl
@[simp] theorem State.withTransport_requesters (s : State) (b : Bool) : (s.withTransport b).requesters = s.requesters := rfl
@[simp] theorem State.withTransport_mem (s : State) (b : Bool) : (s.withTransport b).mem = s.mem := rfl
@[simp] theorem State.withTransport_expander (s : State) (b : Bool) : (s.withTransport b).expander = s.expander := rfl
@[simp] theorem State.withTransport_env (s : State) (b : Bool) : (s.withTransport b).env = s.env := rfl
@[simp] theorem State.withTransport_history (s : State) (b : Bool) : (s.withTransport b).history = s.history := rfl

/-! ### withOwner -/

@[simp] theorem State.withOwner_cfg (s : State) (o : Option Nat) : (s.withOwner o).cfg = s.cfg := rfl
@[simp] theorem State.withOwner_ctx (s : State) (o : Option Nat) : (s.withOwner o).ctx = { s.ctx with lockOwner := o } := rfl
@[simp] theorem State.withOwner_cur (s : State) (o : Option Nat) : (s.withOwner o).cur = s.cur := rfl
@[simp] theorem State.withOwner_requesters (s : State) (o : Option Nat) : (s.withOwner o).requesters = s.requesters := rfl
@[simp] theorem State.withOwner_mem (s : State) (o : Option Nat) : (s.withOwner o).mem = s.mem := rfl
@[simp] theorem State.withOwner_expander (s : State) (o : Option Nat) : (s.withOwner o).expander = s.expander := rfl
@[simp] theorem State.withOwner_env (s : State) (o : Option Nat) : (s.withOwner o).env = s.env := rfl
@[simp] theorem State.withOwner_history (s : State) (o : Option Nat) : (s.withOwner o).history = s.history := rfl

/-! ### withLock -/

@[simp] theorem State.withLock_cfg (s : State) (b : Bool) : (s.withLock b).cfg = s.cfg := rfl
@[simp] theorem State.withLock_ctx (s : State) (b : Bool) : (s.withLock b).ctx = { s.ctx with lockExists := b, lockOwner := none } := rfl
@[simp] theorem State.withLock_cur (s : State) (b : Bool) : (s.withLock b).cur = s.cur := rfl
@[simp] theorem State.withLock_requesters (s : State) (b : Bool) : (s.withLock b).requesters = s.requesters := rfl
@[simp] theorem State.withLock_mem (s : State) (b : Bool) : (s.withLock b).mem = s.mem := rfl
@[simp] theorem State.withLock_expander (s : State) (b : Bool) : (s.withLock b).expander = s.expander := rfl
@[simp] theorem State.withLock_env (s : State) (b : Bool) : (s.withLock b).env = s.env := rfl
@[simp] theorem State.withLock_history (s : State) (b : Bool) : (s.withLock b).history = s.history := rfl

/-! ### The environment -/

@[simp] theorem Env.tick_clock (e : Env) (n : Nat) : (e.tick n).clock = e.clock + n + e.nextElapsed := rfl
@[simp] theorem Env.tick_elapsed (e : Env) (n : Nat) : (e.tick n).elapsed = e.elapsed.tail := rfl
@[simp] theorem Env.tick_allocs (e : Env) (n : Nat) : (e.tick n).allocs = e.allocs := rfl
@[simp] theorem Env.tick_opens (e : Env) (n : Nat) : (e.tick n).opens = e.opens := rfl
@[simp] theorem Env.tick_creates (e : Env) (n : Nat) : (e.tick n).creates = e.creates := rfl
@[simp] theorem Env.tick_writes (e : Env) (n : Nat) : (e.tick n).writes = e.writes := rfl
@[simp] theorem Env.tick_agenda (e : Env) (n : Nat) : (e.tick n).agenda = e.agenda := rfl
@[simp] theorem Env.tick_draws (e : Env) (n : Nat) : (e.tick n).draws = e.draws + 1 := rfl
@[simp] theorem Env.tick_grain (e : Env) (n : Nat) : (e.tick n).grain = e.grain := rfl

@[simp] theorem Env.popAlloc_clock (e : Env) : e.popAlloc.clock = e.clock := rfl
@[simp] theorem Env.popAlloc_elapsed (e : Env) : e.popAlloc.elapsed = e.elapsed := rfl
@[simp] theorem Env.popAlloc_allocs (e : Env) : e.popAlloc.allocs = e.allocs.tail := rfl
@[simp] theorem Env.popAlloc_opens (e : Env) : e.popAlloc.opens = e.opens := rfl
@[simp] theorem Env.popAlloc_creates (e : Env) : e.popAlloc.creates = e.creates := rfl
@[simp] theorem Env.popAlloc_writes (e : Env) : e.popAlloc.writes = e.writes := rfl
@[simp] theorem Env.popAlloc_agenda (e : Env) : e.popAlloc.agenda = e.agenda := rfl
@[simp] theorem Env.popAlloc_draws (e : Env) : e.popAlloc.draws = e.draws := rfl
@[simp] theorem Env.popAlloc_grain (e : Env) : e.popAlloc.grain = e.grain := rfl

@[simp] theorem Env.popOpen_clock (e : Env) : e.popOpen.clock = e.clock := rfl
@[simp] theorem Env.popOpen_elapsed (e : Env) : e.popOpen.elapsed = e.elapsed := rfl
@[simp] theorem Env.popOpen_allocs (e : Env) : e.popOpen.allocs = e.allocs := rfl
@[simp] theorem Env.popOpen_opens (e : Env) : e.popOpen.opens = e.opens.tail := rfl
@[simp] theorem Env.popOpen_creates (e : Env) : e.popOpen.creates = e.creates := rfl
@[simp] theorem Env.popOpen_writes (e : Env) : e.popOpen.writes = e.writes := rfl
@[simp] theorem Env.popOpen_agenda (e : Env) : e.popOpen.agenda = e.agenda := rfl
@[simp] theorem Env.popOpen_draws (e : Env) : e.popOpen.draws = e.draws := rfl
@[simp] theorem Env.popOpen_grain (e : Env) : e.popOpen.grain = e.grain := rfl

@[simp] theorem Env.popCreate_clock (e : Env) : e.popCreate.clock = e.clock := rfl
@[simp] theorem Env.popCreate_elapsed (e : Env) : e.popCreate.elapsed = e.elapsed := rfl
@[simp] theorem Env.popCreate_allocs (e : Env) : e.popCreate.allocs = e.allocs := rfl
@[simp] theorem Env.popCreate_opens (e : Env) : e.popCreate.opens = e.opens := rfl
@[simp] theorem Env.popCreate_creates (e : Env) : e.popCreate.creates = e.creates.tail := rfl
@[simp] theorem Env.popCreate_writes (e : Env) : e.popCreate.writes = e.writes := rfl
@[simp] theorem Env.popCreate_agenda (e : Env) : e.popCreate.agenda = e.agenda := rfl
@[simp] theorem Env.popCreate_draws (e : Env) : e.popCreate.draws = e.draws := rfl
@[simp] theorem Env.popCreate_grain (e : Env) : e.popCreate.grain = e.grain := rfl

@[simp] theorem Env.popWrite_clock (e : Env) : e.popWrite.clock = e.clock := rfl
@[simp] theorem Env.popWrite_elapsed (e : Env) : e.popWrite.elapsed = e.elapsed := rfl
@[simp] theorem Env.popWrite_allocs (e : Env) : e.popWrite.allocs = e.allocs := rfl
@[simp] theorem Env.popWrite_opens (e : Env) : e.popWrite.opens = e.opens := rfl
@[simp] theorem Env.popWrite_creates (e : Env) : e.popWrite.creates = e.creates := rfl
@[simp] theorem Env.popWrite_writes (e : Env) : e.popWrite.writes = e.writes.tail := rfl
@[simp] theorem Env.popWrite_agenda (e : Env) : e.popWrite.agenda = e.agenda := rfl
@[simp] theorem Env.popWrite_draws (e : Env) : e.popWrite.draws = e.draws := rfl
@[simp] theorem Env.popWrite_grain (e : Env) : e.popWrite.grain = e.grain := rfl

/-! ### Requesters -/

/-- Two states with the same requesters read the same requester. -/
theorem State.req_congr {s t : State} (r : Nat) (h : t.requesters = s.requesters) : t.req r = s.req r := by
  simp [State.req, h]

theorem State.req_withReq_same (s : State) {r : Nat} (q : Requester) (h : r < s.requesters.length) :
    (s.withReq r q).req r = q := by
  simp [State.req, h]

theorem State.req_withReq_ne (s : State) {r r' : Nat} (q : Requester) (h : r ≠ r') :
    (s.withReq r q).req r' = s.req r' := by
  simp [State.req, h]

theorem State.req_withSeq_same (s : State) {r : Nat} (p : Option Progress) (h : r < s.requesters.length) :
    (s.withSeq r p).req r = { s.req r with seq := p } := s.req_withReq_same _ h

theorem State.req_withSeq_ne (s : State) {r r' : Nat} (p : Option Progress) (h : r ≠ r') :
    (s.withSeq r p).req r' = s.req r' := s.req_withReq_ne _ h

/-- A requester with a command in progress exists. -/
theorem State.lt_of_seq {s : State} {r : Nat} {p : Progress} (h : (s.req r).seq = some p) : r < s.requesters.length := by
  by_contra hn
  simp [State.req, List.getElem?_eq_none (Nat.le_of_not_lt hn), Requester.fresh] at h

@[simp] theorem State.withSeq_withSeq (s : State) (r : Nat) (p q : Option Progress) :
    (s.withSeq r p).withSeq r q = s.withSeq r q := by
  by_cases h : r < s.requesters.length
  · simp only [State.withSeq, State.req_withReq_same _ _ h]
    simp [State.withReq]
  · have h' : s.requesters.length ≤ r := Nat.le_of_not_lt h
    simp [State.withSeq, State.withReq, List.set_eq_of_length_le h']

/-- Setting a sequencer position to what it is changes nothing. -/
theorem State.withSeq_self {s : State} {r : Nat} {p : Option Progress} (h : (s.req r).seq = p) : s.withSeq r p = s := by
  subst h
  unfold State.withSeq State.withReq State.req
  have : s.requesters.set r (s.requesters[r]?.getD Requester.fresh) = s.requesters := by
    apply List.ext_getElem? ; intro k
    rw [List.getElem?_set]
    split
    · subst_vars
      split
      · rename_i hk; simp [hk]
      · rename_i hk; simp [List.getElem?_eq_none (Nat.le_of_not_lt hk)]
    · rfl
  cases s
  simpa using this

@[simp] theorem State.withSeq_length (s : State) (r : Nat) (p : Option Progress) :
    (s.withSeq r p).requesters.length = s.requesters.length := by simp

/-! ### A sequencer position goes past every other update -/

theorem State.withCtx_withSeq (s : State) (k : Nat) (x : Option Progress) (c : Context) : (s.withSeq k x).withCtx c = (s.withCtx c).withSeq k x := rfl
theorem State.withEnv_withSeq (s : State) (k : Nat) (x : Option Progress) (e : Env) : (s.withSeq k x).withEnv e = (s.withEnv e).withSeq k x := rfl
theorem State.withMem_withSeq (s : State) (k : Nat) (x : Option Progress) (m : List Host.Cell) : (s.withSeq k x).withMem m = (s.withMem m).withSeq k x := rfl
theorem State.withExpander_withSeq (s : State) (k : Nat) (x : Option Progress) (v : Byte) : (s.withSeq k x).withExpander v = (s.withExpander v).withSeq k x := rfl
theorem State.port_withSeq (s : State) (k : Nat) (x : Option Progress) (n : Nat) (ev : Event) : (s.withSeq k x).port n ev = (s.port n ev).withSeq k x := rfl
theorem State.withLife_withSeq (s : State) (k : Nat) (x : Option Progress) (l : Life) : (s.withSeq k x).withLife l = (s.withLife l).withSeq k x := rfl
theorem State.withDefaults_withSeq (s : State) (k : Nat) (x : Option Progress) (a : Byte) (b : Bool) : (s.withSeq k x).withDefaults a b = (s.withDefaults a b).withSeq k x := rfl
theorem State.withBacklight_withSeq (s : State) (k : Nat) (x : Option Progress) (b : Bool) : (s.withSeq k x).withBacklight b = (s.withBacklight b).withSeq k x := rfl
theorem State.withTick_withSeq (s : State) (k : Nat) (x : Option Progress) (t : Tick) : (s.withSeq k x).withTick t = (s.withTick t).withSeq k x := rfl
theorem State.withTransport_withSeq (s : State) (k : Nat) (x : Option Progress) (b : Bool) : (s.withSeq k x).withTransport b = (s.withTransport b).withSeq k x := rfl
theorem State.withOwner_withSeq (s : State) (k : Nat) (x : Option Progress) (o : Option Nat) : (s.withSeq k x).withOwner o = (s.withOwner o).withSeq k x := rfl
theorem State.withLock_withSeq (s : State) (k : Nat) (x : Option Progress) (b : Bool) : (s.withSeq k x).withLock b = (s.withLock b).withSeq k x := rfl

@[simp] theorem State.events_withSeq (s : State) (r : Nat) (p : Option Progress) : (s.withSeq r p).events = s.events := rfl

theorem State.events_port (s : State) (n : Nat) (ev : Event) : (s.port n ev).events = s.events ++ [ev] := by
  simp [State.events]

end Sys2Proof.Machine
end

