-- ==== Sys2Proof/Laws/Run.lean ====
section
/-! SUPPORT. Running lines: one lemma per line, the byte write as one operation, and what a command is once it is admitted. -/

namespace Sys2Proof.Machine

/-! ### The port primitives, field by field -/

@[simp] theorem State.tWrite_cfg (s : State) (v : Byte) : (s.tWrite v).cfg = s.cfg := rfl
@[simp] theorem State.tWrite_ctx (s : State) (v : Byte) : (s.tWrite v).ctx = s.ctx := rfl
@[simp] theorem State.tWrite_cur (s : State) (v : Byte) : (s.tWrite v).cur = s.cur := rfl
@[simp] theorem State.tWrite_requesters (s : State) (v : Byte) : (s.tWrite v).requesters = s.requesters := rfl
@[simp] theorem State.tWrite_mem (s : State) (v : Byte) : (s.tWrite v).mem = s.mem := rfl
@[simp] theorem State.tWrite_expander (s : State) (v : Byte) :
    (s.tWrite v).expander = outputsAfter s.expander v s.env.nextWrite := rfl
@[simp] theorem State.tWrite_env (s : State) (v : Byte) : (s.tWrite v).env = s.env.popWrite.tick 0 := rfl
@[simp] theorem State.tWrite_events (s : State) (v : Byte) :
    (s.tWrite v).events = s.events ++ [.tWrite v s.env.nextWrite.isOk] := by simp [State.tWrite, State.events]
@[simp] theorem State.now_cfg (s : State) : s.now.cfg = s.cfg := rfl
@[simp] theorem State.now_ctx (s : State) : s.now.ctx = s.ctx := rfl
@[simp] theorem State.now_cur (s : State) : s.now.cur = s.cur := rfl
@[simp] theorem State.now_requesters (s : State) : s.now.requesters = s.requesters := rfl
@[simp] theorem State.now_mem (s : State) : s.now.mem = s.mem := rfl
@[simp] theorem State.now_expander (s : State) : s.now.expander = s.expander := rfl
@[simp] theorem State.now_env (s : State) : s.now.env = s.env.tick 0 := rfl
@[simp] theorem State.delay_cfg (s : State) (n : Tick) : (s.delay n).cfg = s.cfg := rfl
@[simp] theorem State.delay_ctx (s : State) (n : Tick) : (s.delay n).ctx = s.ctx := rfl
@[simp] theorem State.delay_cur (s : State) (n : Tick) : (s.delay n).cur = s.cur := rfl
@[simp] theorem State.delay_requesters (s : State) (n : Tick) : (s.delay n).requesters = s.requesters := rfl
@[simp] theorem State.delay_mem (s : State) (n : Tick) : (s.delay n).mem = s.mem := rfl
@[simp] theorem State.delay_expander (s : State) (n : Tick) : (s.delay n).expander = s.expander := rfl
@[simp] theorem State.delay_env (s : State) (n : Tick) : (s.delay n).env = s.env.tick n.toNat := rfl
@[simp] theorem State.now_events (s : State) : s.now.events = s.events ++ [.now s.nowValue] := s.events_port _ _
@[simp] theorem State.delay_events (s : State) (n : Tick) : (s.delay n).events = s.events ++ [.delay n] := s.events_port _ _
@[simp] theorem State.port_events (s : State) (n : Nat) (ev : Event) : (s.port n ev).events = s.events ++ [ev] := s.events_port _ _
@[simp] theorem State.withCtx_events (s : State) (c : Context) : (s.withCtx c).events = s.events := rfl
@[simp] theorem State.withTick_events (s : State) (t : Tick) : (s.withTick t).events = s.events := rfl
@[simp] theorem State.withOwner_events (s : State) (o : Option Nat) : (s.withOwner o).events = s.events := rfl
@[simp] theorem State.withBacklight_events (s : State) (b : Bool) : (s.withBacklight b).events = s.events := rfl
@[simp] theorem State.withTransport_events (s : State) (b : Bool) : (s.withTransport b).events = s.events := rfl
@[simp] theorem State.withLock_events (s : State) (b : Bool) : (s.withLock b).events = s.events := rfl
@[simp] theorem State.withLife_events (s : State) (l : Life) : (s.withLife l).events = s.events := rfl
@[simp] theorem State.withDefaults_events (s : State) (a : Byte) (b : Bool) : (s.withDefaults a b).events = s.events := rfl

theorem State.tWrite_withSeq (s : State) (k : Nat) (x : Option Progress) (v : Byte) :
    (s.withSeq k x).tWrite v = (s.tWrite v).withSeq k x := rfl
theorem State.now_withSeq (s : State) (k : Nat) (x : Option Progress) : (s.withSeq k x).now = s.now.withSeq k x := rfl
theorem State.nowValue_withSeq (s : State) (k : Nat) (x : Option Progress) : (s.withSeq k x).nowValue = s.nowValue := rfl
theorem State.delay_withSeq (s : State) (k : Nat) (x : Option Progress) (n : Tick) :
    (s.withSeq k x).delay n = (s.delay n).withSeq k x := rfl
theorem State.waitReady_withSeq (s : State) (k : Nat) (x : Option Progress) (t : Tick) :
    (s.withSeq k x).waitReady t = (s.waitReady t).withSeq k x := by
  unfold State.waitReady
  by_cases h : t < s.ctx.nextReadyTick <;> simp [h, State.delay_withSeq]

/-- Two latches that agree give their register select (R127). -/
@[simp] theorem pairedSelect_agree (b : Bool) (pending : List (Nibble × Bool)) : pairedSelect b b pending = b := by
  simp [pairedSelect]

/-! ### One line -/

/-- A line that has a step is performed, and the run goes on. -/
theorem State.runLines_line {s : State} {r n : Nat} {p : Progress} {l : Line} {rest : List Line}
    (hp : (s.req r).seq = some p) (ht : p.todo = l :: rest) (hb : s.hindrance r l = none) :
    State.runLines (n + 1) r s = State.runLines n r (s.lineStep r { p with todo := rest } l) := by
  have hm : s.canMove r = true := by simp [State.canMove, State.blocked, hp, ht, hb]
  rw [State.runLines, if_pos hm]
  simp [State.perform, hp, ht]

/-- The same where the sequencer position was set last. -/
theorem State.runLines_at {s : State} {r n : Nat} {i : Instr} {l : Line} {rest : List Line} {k : Byte} {t t2 : Tick}
    (hr : r < s.requesters.length) (hb : s.hindrance r l = none) :
    State.runLines (n + 1) r (s.withSeq r (some ⟨i, l :: rest, k, t, t2⟩)) =
      State.runLines n r ((s.withSeq r (some ⟨i, l :: rest, k, t, t2⟩)).lineStep r ⟨i, rest, k, t, t2⟩ l) := by
  refine State.runLines_line (p := ⟨i, l :: rest, k, t, t2⟩) ?_ rfl ?_
  · rw [State.req_withSeq_same _ _ hr]
  · cases l <;> exact hb

/-- An idle requester's run is over. -/
theorem State.runLines_idle {s : State} {r : Nat} (n : Nat) (hp : (s.req r).seq = none) : State.runLines n r s = s := by
  cases n with
  | zero => rfl
  | succ n => simp [State.runLines, State.canMove, hp]

/-- A run is a run of its first lines followed by a run of the others. -/
theorem State.runLines_add (m n r : Nat) (s : State) :
    State.runLines (m + n) r s = State.runLines n r (State.runLines m r s) := by
  induction m generalizing s with
  | zero => simp [State.runLines]
  | succ m ih =>
    rw [Nat.succ_add, State.runLines, State.runLines]
    split
    · exact ih _
    · rename_i h
      cases n with
      | zero => rfl
      | succ n => rw [State.runLines, if_neg h]

/-! ### A byte write as one operation -/

/-- Lines B0 and B1: the lock is taken and WAIT is done (R123, R141). -/
def State.byteStart (r : Nat) (s : State) : State :=
  let s1 := (s.port 0 (.acquire r)).withOwner (some r)
  s1.now.waitReady s1.nowValue

/-- Line B3, the first raw write (R122). -/
def State.byteWrite0 (c : Config) (ctl b : Byte) (s : State) : State := s.tWrite (nibbleWire c (upperNibble b) ctl true)

/-- Line B3 as a whole. -/
def State.byteWrite1 (c : Config) (ctl b : Byte) (s : State) : State :=
  ((s.byteWrite0 c ctl b).delay c.enablePulse).tWrite (nibbleWire c (upperNibble b) ctl false)

/-- Lines B3, B4 and the first raw write of B5 (R124). -/
def State.byteWrite2 (c : Config) (ctl b : Byte) (s : State) : State :=
  ((s.byteWrite1 c ctl b).delay c.enableSettle).tWrite (nibbleWire c (lowerNibble b) ctl true)

/-- Lines B3 to B5. -/
def State.byteWrite3 (c : Config) (ctl b : Byte) (s : State) : State :=
  ((s.byteWrite2 c ctl b).delay c.enablePulse).tWrite (nibbleWire c (lowerNibble b) ctl false)

@[simp] theorem State.byteWrite0_cfg (s : State) (c : Config) (k b : Byte) : (s.byteWrite0 c k b).cfg = s.cfg := by
  simp [State.byteWrite0]
@[simp] theorem State.byteWrite0_ctx (s : State) (c : Config) (k b : Byte) : (s.byteWrite0 c k b).ctx = s.ctx := by
  simp [State.byteWrite0]
@[simp] theorem State.byteWrite0_cur (s : State) (c : Config) (k b : Byte) : (s.byteWrite0 c k b).cur = s.cur := by
  simp [State.byteWrite0]
@[simp] theorem State.byteWrite0_requesters (s : State) (c : Config) (k b : Byte) : (s.byteWrite0 c k b).requesters = s.requesters := by
  simp [State.byteWrite0]
@[simp] theorem State.byteWrite0_mem (s : State) (c : Config) (k b : Byte) : (s.byteWrite0 c k b).mem = s.mem := by
  simp [State.byteWrite0]
@[simp] theorem State.byteWrite0_writes (s : State) (c : Config) (k b : Byte) :
    (s.byteWrite0 c k b).env.writes = s.env.writes.drop 1 := by
  simp [State.byteWrite0, ← List.drop_one]
@[simp] theorem State.byteWrite1_cfg (s : State) (c : Config) (k b : Byte) : (s.byteWrite1 c k b).cfg = s.cfg := by
  simp [State.byteWrite1]
@[simp] theorem State.byteWrite1_ctx (s : State) (c : Config) (k b : Byte) : (s.byteWrite1 c k b).ctx = s.ctx := by
  simp [State.byteWrite1]
@[simp] theorem State.byteWrite1_cur (s : State) (c : Config) (k b : Byte) : (s.byteWrite1 c k b).cur = s.cur := by
  simp [State.byteWrite1]
@[simp] theorem State.byteWrite1_requesters (s : State) (c : Config) (k b : Byte) : (s.byteWrite1 c k b).requesters = s.requesters := by
  simp [State.byteWrite1]
@[simp] theorem State.byteWrite1_mem (s : State) (c : Config) (k b : Byte) : (s.byteWrite1 c k b).mem = s.mem := by
  simp [State.byteWrite1]
@[simp] theorem State.byteWrite1_writes (s : State) (c : Config) (k b : Byte) :
    (s.byteWrite1 c k b).env.writes = s.env.writes.drop 2 := by
  simp [State.byteWrite1, ← List.drop_one]
@[simp] theorem State.byteWrite2_cfg (s : State) (c : Config) (k b : Byte) : (s.byteWrite2 c k b).cfg = s.cfg := by
  simp [State.byteWrite2]
@[simp] theorem State.byteWrite2_ctx (s : State) (c : Config) (k b : Byte) : (s.byteWrite2 c k b).ctx = s.ctx := by
  simp [State.byteWrite2]
@[simp] theorem State.byteWrite2_cur (s : State) (c : Config) (k b : Byte) : (s.byteWrite2 c k b).cur = s.cur := by
  simp [State.byteWrite2]
@[simp] theorem State.byteWrite2_requesters (s : State) (c : Config) (k b : Byte) : (s.byteWrite2 c k b).requesters = s.requesters := by
  simp [State.byteWrite2]
@[simp] theorem State.byteWrite2_mem (s : State) (c : Config) (k b : Byte) : (s.byteWrite2 c k b).mem = s.mem := by
  simp [State.byteWrite2]
@[simp] theorem State.byteWrite2_writes (s : State) (c : Config) (k b : Byte) :
    (s.byteWrite2 c k b).env.writes = s.env.writes.drop 3 := by
  simp [State.byteWrite2, ← List.drop_one]
@[simp] theorem State.byteWrite3_cfg (s : State) (c : Config) (k b : Byte) : (s.byteWrite3 c k b).cfg = s.cfg := by
  simp [State.byteWrite3]
@[simp] theorem State.byteWrite3_ctx (s : State) (c : Config) (k b : Byte) : (s.byteWrite3 c k b).ctx = s.ctx := by
  simp [State.byteWrite3]
@[simp] theorem State.byteWrite3_cur (s : State) (c : Config) (k b : Byte) : (s.byteWrite3 c k b).cur = s.cur := by
  simp [State.byteWrite3]
@[simp] theorem State.byteWrite3_requesters (s : State) (c : Config) (k b : Byte) : (s.byteWrite3 c k b).requesters = s.requesters := by
  simp [State.byteWrite3]
@[simp] theorem State.byteWrite3_mem (s : State) (c : Config) (k b : Byte) : (s.byteWrite3 c k b).mem = s.mem := by
  simp [State.byteWrite3]
@[simp] theorem State.byteWrite3_writes (s : State) (c : Config) (k b : Byte) :
    (s.byteWrite3 c k b).env.writes = s.env.writes.drop 4 := by
  simp [State.byteWrite3, ← List.drop_one]

/-- Lines B6 and B7: RECORD and the release of the lock (R123, R142). -/
def State.byteEnd (r : Nat) (d : Tick) (s : State) : State :=
  ((s.now.withTick (s.nowValue + umax s.cfg.settleFloor d)).port 0 (.release r)).withOwner none

/-- Lines BF1 and BF2: INVALIDATE and the release of the lock (R123, R143). -/
def State.byteAbort (r : Nat) (s : State) : State := ((s.withTick 0).port 0 (.release r)).withOwner none

@[simp] theorem State.waitReady_cfg (s : State) (t : Tick) : (s.waitReady t).cfg = s.cfg := by unfold State.waitReady; split <;> rfl
@[simp] theorem State.waitReady_ctx (s : State) (t : Tick) : (s.waitReady t).ctx = s.ctx := by unfold State.waitReady; split <;> rfl
@[simp] theorem State.waitReady_cur (s : State) (t : Tick) : (s.waitReady t).cur = s.cur := by unfold State.waitReady; split <;> rfl
@[simp] theorem State.waitReady_requesters (s : State) (t : Tick) : (s.waitReady t).requesters = s.requesters := by
  unfold State.waitReady; split <;> rfl
@[simp] theorem State.waitReady_mem (s : State) (t : Tick) : (s.waitReady t).mem = s.mem := by unfold State.waitReady; split <;> rfl
@[simp] theorem State.waitReady_writes (s : State) (t : Tick) : (s.waitReady t).env.writes = s.env.writes := by
  unfold State.waitReady; split <;> rfl

@[simp] theorem State.byteStart_cfg (s : State) (r : Nat) : (s.byteStart r).cfg = s.cfg := by simp [State.byteStart]
@[simp] theorem State.byteStart_requesters (s : State) (r : Nat) : (s.byteStart r).requesters = s.requesters := by
  simp [State.byteStart]
@[simp] theorem State.byteStart_ctx (s : State) (r : Nat) : (s.byteStart r).ctx = { s.ctx with lockOwner := some r } := by
  simp [State.byteStart]
@[simp] theorem State.byteStart_writes (s : State) (r : Nat) : (s.byteStart r).env.writes = s.env.writes := by
  simp [State.byteStart]

/-- The clock reading of WAIT in a byte write that starts at `s`. -/
def State.byteNow (r : Nat) (s : State) : Tick := ((s.port 0 (.acquire r)).withOwner (some r)).nowValue

/-- Lines B0 to B2 in one. -/
theorem State.run_byteStart {s : State} {r n : Nat} {i : Instr} {rest : List Line} {k : Byte} {t t2 : Tick} {isData : Bool}
    (hr : r < s.requesters.length) (hl : s.ctx.lockExists = true) (hf : s.ctx.lockOwner = none) :
    State.runLines (n + 4) r (s.withSeq r (some ⟨i, [.acquire, .readClock, .waitReady, .control isData] ++ rest, k, t, t2⟩)) =
      State.runLines n r ((s.byteStart r).withSeq r
        (some ⟨i, rest, controlNibble s.cfg s.ctx.backlightOn isData, s.byteNow r, t2⟩)) := by
  have h1 : s.hindrance r .acquire = none := by simp [State.hindrance, hl, hf]
  simp only [List.cons_append, List.nil_append]
  rw [State.runLines_at hr h1]
  simp only [State.lineStep, State.port_withSeq, State.withOwner_withSeq, State.withSeq_withSeq]
  rw [State.runLines_at (by simpa using hr) rfl]
  simp only [State.lineStep, State.now_withSeq, State.nowValue_withSeq, State.withSeq_withSeq]
  rw [State.runLines_at (by simpa  using hr) rfl]
  simp only [State.lineStep, State.waitReady_withSeq, State.withSeq_withSeq]
  rw [State.runLines_at (by simpa  using hr) rfl]
  simp [State.lineStep, State.byteStart, State.byteNow]

/-- One raw write of a byte or bare nibble inside a run. -/
theorem State.run_write {s : State} {r n : Nat} {i : Instr} {rest : List Line} {k : Byte} {t t2 : Tick} {m : Nibble} {e ib : Bool}
    (hr : r < s.requesters.length) (ho : s.ctx.transportOpen = true) :
    State.runLines (n + 1) r (s.withSeq r (some ⟨i, .nibbleWrite m e ib :: rest, k, t, t2⟩)) =
      State.runLines n r ((s.tWrite (nibbleWire s.cfg m k e)).withSeq r
        (some (if s.env.nextWrite.isOk then ⟨i, rest, k, t, t2⟩ else (Progress.mk i rest k t t2).raiseTransfer ib))) := by
  rw [State.runLines_at hr (by simp [State.hindrance, ho])]
  simp only [State.lineStep, State.writeLine, State.tWrite_withSeq, State.withSeq_withSeq]
  rfl

/-- One delay inside a run. -/
theorem State.run_delay {s : State} {r n : Nat} {i : Instr} {rest : List Line} {k : Byte} {t t2 d : Tick}
    (hr : r < s.requesters.length) :
    State.runLines (n + 1) r (s.withSeq r (some ⟨i, .delay d :: rest, k, t, t2⟩)) =
      State.runLines n r ((s.delay d).withSeq r (some ⟨i, rest, k, t, t2⟩)) := by
  rw [State.runLines_at hr rfl]
  simp only [State.lineStep, State.delay_withSeq, State.withSeq_withSeq]

/-- Lines B6 and B7 in one. -/
theorem State.run_byteEnd {s : State} {r n : Nat} {i : Instr} {rest : List Line} {k : Byte} {t t2 d : Tick}
    (hr : r < s.requesters.length) (ho : s.ctx.lockOwner = some r) :
    State.runLines (n + 3) r (s.withSeq r (some ⟨i, .readClockAgain :: .recordTick d :: .release :: rest, k, t, t2⟩)) =
      State.runLines n r ((s.byteEnd r d).withSeq r (some ⟨i, rest, k, t, s.nowValue⟩)) := by
  rw [State.runLines_at hr rfl]
  simp only [State.lineStep, State.now_withSeq, State.nowValue_withSeq, State.withSeq_withSeq]
  rw [State.runLines_at (by simpa  using hr) rfl]
  simp only [State.lineStep, State.withTick_withSeq, State.withSeq_withSeq, State.withSeq_cfg]
  rw [State.runLines_at (by simpa  using hr) (by simp [State.hindrance, ho])]
  simp [State.lineStep, State.port_withSeq, State.withOwner_withSeq, State.byteEnd]

/-- Lines BF1 and BF2 in one. -/
theorem State.run_byteAbort {s : State} {r n : Nat} {i : Instr} {rest : List Line} {k : Byte} {t t2 : Tick}
    (hr : r < s.requesters.length) (ho : s.ctx.lockOwner = some r) :
    State.runLines (n + 2) r (s.withSeq r (some ⟨i, .invalidate :: .release :: rest, k, t, t2⟩)) =
      State.runLines n r ((s.byteAbort r).withSeq r (some ⟨i, rest, k, t, t2⟩)) := by
  rw [State.runLines_at hr rfl]
  simp only [State.lineStep, State.withTick_withSeq, State.withSeq_withSeq]
  rw [State.runLines_at (by simpa using hr) (by simp [State.hindrance, ho])]
  simp [State.lineStep, State.port_withSeq, State.withOwner_withSeq, State.byteAbort]

/-- The end of a command in one. -/
theorem State.run_ret {s : State} {r n : Nat} {i : Instr} {k : Byte} {t t2 : Tick} {st : Status}
    (hr : r < s.requesters.length) :
    State.runLines (n + 1) r (s.withSeq r (some ⟨i, [.ret st], k, t, t2⟩)) =
      (if i.isHost then s.port 0 (.status r (st.code s.cfg)) else s).withSeq r none := by
  rw [State.runLines_at hr rfl]
  have : ((s.withSeq r (some ⟨i, [.ret st], k, t, t2⟩)).lineStep r ⟨i, [], k, t, t2⟩ (.ret st)) =
      (if i.isHost then s.port 0 (.status r (st.code s.cfg)) else s).withSeq r none := by
    simp only [State.lineStep, State.finish]
    split <;> simp [State.port_withSeq]
  rw [this]
  refine State.runLines_idle n ?_
  rw [State.req_withSeq_same]
  split <;> simpa using hr

end Sys2Proof.Machine
end

