-- ==== Sys2Proof/Laws/Byte.lean ====
section
/-! SUPPORT. A byte write as one operation: what a run of its 14 lines leaves when nothing fails, and when a raw write fails. -/

namespace Sys2Proof.Machine

theorem Env.nextWrite_cons {e : Env} {a : WriteAnswer} {l : List WriteAnswer} (h : e.writes = a :: l) : e.nextWrite = a := by
  simp [Env.nextWrite, h]

@[simp] theorem State.byteEnd_cfg (s : State) (r : Nat) (d : Tick) : (s.byteEnd r d).cfg = s.cfg := by simp [State.byteEnd]
@[simp] theorem State.byteEnd_ctx (s : State) (r : Nat) (d : Tick) :
    (s.byteEnd r d).ctx = { s.ctx with nextReadyTick := s.nowValue + umax s.cfg.settleFloor d, lockOwner := none } := by
  simp [State.byteEnd]
@[simp] theorem State.byteEnd_cur (s : State) (r : Nat) (d : Tick) : (s.byteEnd r d).cur = s.cur := by simp [State.byteEnd]
@[simp] theorem State.byteEnd_requesters (s : State) (r : Nat) (d : Tick) : (s.byteEnd r d).requesters = s.requesters := by
  simp [State.byteEnd]
@[simp] theorem State.byteEnd_mem (s : State) (r : Nat) (d : Tick) : (s.byteEnd r d).mem = s.mem := by simp [State.byteEnd]
@[simp] theorem State.byteEnd_writes (s : State) (r : Nat) (d : Tick) : (s.byteEnd r d).env.writes = s.env.writes := by
  simp [State.byteEnd]

/-- Lines B3 to B5 when all four raw writes answer `ok`. -/
theorem State.run_byteTransfer_ok {s : State} {r n : Nat} {i : Instr} {rest : List Line} {k b : Byte} {t t2 : Tick}
    {ws : List WriteAnswer} (hr : r < s.requesters.length) (ho : s.ctx.transportOpen = true)
    (hw : s.env.writes = .ok :: .ok :: .ok :: .ok :: ws) :
    State.runLines (n + 7) r (s.withSeq r (some ⟨i,
      [.nibbleWrite (upperNibble b) true true, .delay s.cfg.enablePulse, .nibbleWrite (upperNibble b) false true,
       .delay s.cfg.enableSettle, .nibbleWrite (lowerNibble b) true true, .delay s.cfg.enablePulse,
       .nibbleWrite (lowerNibble b) false true] ++ rest, k, t, t2⟩)) =
      State.runLines n r ((s.byteWrite3 s.cfg k b).withSeq r (some ⟨i, rest, k, t, t2⟩)) := by
  simp only [List.cons_append, List.nil_append]
  rw [State.run_write hr ho, Env.nextWrite_cons hw]
  simp only [WriteAnswer.isOk, if_true]
  rw [State.run_delay (by simpa using hr),
    State.run_write (by simpa using hr) (by simpa using ho),
    Env.nextWrite_cons (a := .ok) (l := .ok :: .ok :: ws) (by simp [hw])]
  simp only [WriteAnswer.isOk, if_true]
  rw [State.run_delay (by simpa using hr),
    State.run_write (by simpa using hr) (by simpa using ho),
    Env.nextWrite_cons (a := .ok) (l := .ok :: ws) (by simp [hw])]
  simp only [WriteAnswer.isOk, if_true]
  rw [State.run_delay (by simpa using hr),
    State.run_write (by simpa using hr) (by simpa using ho),
    Env.nextWrite_cons (a := .ok) (l := ws) (by simp [hw])]
  simp [WriteAnswer.isOk, State.byteWrite3, State.byteWrite2, State.byteWrite1, State.byteWrite0]

/-- The control nibble of a byte write that starts at `s` (R121). -/
def State.byteControl (isData : Bool) (s : State) : Byte := controlNibble s.cfg s.ctx.backlightOn isData

/-- A byte write in which nothing fails, as one operation. -/
def State.byteDone (r : Nat) (isData : Bool) (b : Byte) (d : Tick) (s : State) : State :=
  ((s.byteStart r).byteWrite3 s.cfg (s.byteControl isData) b).byteEnd r d

/-- The 14 lines of a byte write when all four raw writes answer `ok`. -/
theorem State.run_byte_ok {s : State} {r n : Nat} {i : Instr} {rest : List Line} {k b : Byte} {t t2 d : Tick} {isData : Bool}
    {ws : List WriteAnswer} (hr : r < s.requesters.length) (hl : s.ctx.lockExists = true) (hf : s.ctx.lockOwner = none)
    (ho : s.ctx.transportOpen = true) (hw : s.env.writes = .ok :: .ok :: .ok :: .ok :: ws) :
    State.runLines (n + 14) r (s.withSeq r (some ⟨i, byteLines s.cfg isData b d ++ rest, k, t, t2⟩)) =
      State.runLines n r ((s.byteDone r isData b d).withSeq r (some ⟨i, rest, s.byteControl isData, s.byteNow r,
        ((s.byteStart r).byteWrite3 s.cfg (s.byteControl isData) b).nowValue⟩)) := by
  have e : byteLines s.cfg isData b d ++ rest = [.acquire, .readClock, .waitReady, .control isData] ++
      ([.nibbleWrite (upperNibble b) true true, .delay (s.byteStart r).cfg.enablePulse, .nibbleWrite (upperNibble b) false true,
       .delay (s.byteStart r).cfg.enableSettle, .nibbleWrite (lowerNibble b) true true, .delay (s.byteStart r).cfg.enablePulse,
       .nibbleWrite (lowerNibble b) false true] ++ (.readClockAgain :: .recordTick d :: .release :: rest)) := by
    simp [byteLines]
  rw [e, show n + 14 = (n + 10) + 4 from rfl, State.run_byteStart hr hl hf, show n + 10 = (n + 3) + 7 from rfl,
    State.run_byteTransfer_ok (by simpa using hr) (by simpa using ho) (by simpa using hw),
    State.run_byteEnd (by simpa using hr) (by simp)]
  simp [State.byteDone, State.byteControl]

/-- Lines B3 to B5 as far as the raw write with index `k`, which fails after `ok` answers before it. -/
def State.byteCut (c : Config) (ctl b : Byte) (s : State) : Nat → State
  | 0 => s.byteWrite0 c ctl b
  | 1 => s.byteWrite1 c ctl b
  | 2 => s.byteWrite2 c ctl b
  | _ => s.byteWrite3 c ctl b

/-- The lines of a byte write when the raw write with index `k` fails: the abort path follows (R125). -/
theorem State.run_byte_fail {s : State} {r k : Nat} {i : Instr} {rest : List Line} {c b : Byte} {t t2 d : Tick} {isData : Bool}
    {a : WriteAnswer} {ws : List WriteAnswer} (hr : r < s.requesters.length) (hl : s.ctx.lockExists = true)
    (hf : s.ctx.lockOwner = none) (ho : s.ctx.transportOpen = true) (hk : k < 4)
    (hw : s.env.writes = List.replicate k .ok ++ a :: ws) (ha : a.isOk = false) (n : Nat) :
    State.runLines (n + 2 * k + 7) r (s.withSeq r (some ⟨i, byteLines s.cfg isData b d ++ rest, c, t, t2⟩)) =
      State.runLines n r (((((s.byteStart r).byteCut s.cfg (s.byteControl isData) b k)).byteAbort r).withSeq r
        (some ⟨i, abortLines i, s.byteControl isData, s.byteNow r, t2⟩)) := by
  have e : byteLines s.cfg isData b d ++ rest = [.acquire, .readClock, .waitReady, .control isData] ++
      ([.nibbleWrite (upperNibble b) true true, .delay s.cfg.enablePulse, .nibbleWrite (upperNibble b) false true,
       .delay s.cfg.enableSettle, .nibbleWrite (lowerNibble b) true true, .delay s.cfg.enablePulse,
       .nibbleWrite (lowerNibble b) false true] ++ (.readClockAgain :: .recordTick d :: .release :: rest)) := by
    simp [byteLines]
  rw [e, show n + 2 * k + 7 = (n + 2 * k + 3) + 4 from rfl, State.run_byteStart hr hl hf]
  simp only [List.cons_append, List.nil_append]
  have hr' : r < (s.byteStart r).requesters.length := by simpa using hr
  have ho' : (s.byteStart r).ctx.transportOpen = true := by simpa using ho
  have hw' : (s.byteStart r).env.writes = List.replicate k .ok ++ a :: ws := by simpa using hw
  have hown : (s.byteStart r).ctx.lockOwner = some r := by simp
  generalize hs : s.byteStart r = u at *
  have hc : u.cfg = s.cfg := by rw [← hs]; simp
  rw [← hc]
  obtain rfl | rfl | rfl | rfl : k = 0 ∨ k = 1 ∨ k = 2 ∨ k = 3 := by omega
  · rw [show n + 2 * 0 + 3 = (n + 2) + 1 from rfl, State.run_write hr' ho', Env.nextWrite_cons (l := ws) (by simpa using hw')]
    simp only [ha, Progress.raiseTransfer, if_true, Bool.false_eq_true, if_false, List.cons_append, List.nil_append]
    rw [State.run_byteAbort (by simpa using hr') (by simpa using hown)]
    simp [State.byteCut, State.byteWrite0, State.byteControl, hc]
  · rw [show n + 2 * 1 + 3 = (n + 4) + 1 from rfl, State.run_write hr' ho', Env.nextWrite_cons (l := a :: ws) (by simpa using hw')]
    simp only [WriteAnswer.isOk, if_true]
    rw [State.run_delay (by simpa using hr'),
      State.run_write (by simpa using hr') (by simpa using ho'),
      Env.nextWrite_cons (a := a) (l := ws) (by simp [hw'])]
    simp only [ha, Progress.raiseTransfer, if_true, Bool.false_eq_true, if_false, List.cons_append, List.nil_append]
    rw [State.run_byteAbort (by simpa using hr') (by simpa using hown)]
    simp [State.byteCut, State.byteWrite1, State.byteWrite0, State.byteControl, hc]
  · rw [show n + 2 * 2 + 3 = (n + 6) + 1 from rfl, State.run_write hr' ho',
      Env.nextWrite_cons (l := .ok :: a :: ws) (by simpa [List.replicate] using hw')]
    simp only [WriteAnswer.isOk, if_true]
    rw [State.run_delay (by simpa using hr'),
      State.run_write (by simpa using hr') (by simpa using ho'),
      Env.nextWrite_cons (a := .ok) (l := a :: ws) (by simp [hw', List.replicate])]
    simp only [WriteAnswer.isOk, if_true]
    rw [State.run_delay (by simpa using hr'),
      State.run_write (by simpa using hr') (by simpa using ho'),
      Env.nextWrite_cons (a := a) (l := ws) (by simp [hw', List.replicate])]
    simp only [ha, Progress.raiseTransfer, if_true, Bool.false_eq_true, if_false, List.cons_append, List.nil_append]
    rw [State.run_byteAbort (by simpa using hr') (by simpa using hown)]
    simp [State.byteCut, State.byteWrite2, State.byteWrite1, State.byteWrite0, State.byteControl, hc]
  · rw [show n + 2 * 3 + 3 = (n + 8) + 1 from rfl, State.run_write hr' ho',
      Env.nextWrite_cons (l := .ok :: .ok :: a :: ws) (by simpa [List.replicate] using hw')]
    simp only [WriteAnswer.isOk, if_true]
    rw [State.run_delay (by simpa using hr'),
      State.run_write (by simpa using hr') (by simpa using ho'),
      Env.nextWrite_cons (a := .ok) (l := .ok :: a :: ws) (by simp [hw', List.replicate])]
    simp only [WriteAnswer.isOk, if_true]
    rw [State.run_delay (by simpa using hr'),
      State.run_write (by simpa using hr') (by simpa using ho'),
      Env.nextWrite_cons (a := .ok) (l := a :: ws) (by simp [hw', List.replicate])]
    simp only [WriteAnswer.isOk, if_true]
    rw [State.run_delay (by simpa using hr'),
      State.run_write (by simpa using hr') (by simpa using ho'),
      Env.nextWrite_cons (a := a) (l := ws) (by simp [hw', List.replicate])]
    simp only [ha, Progress.raiseTransfer, if_true, Bool.false_eq_true, if_false, List.cons_append, List.nil_append]
    rw [State.run_byteAbort (by simpa using hr') (by simpa using hown)]
    simp [State.byteCut, State.byteWrite3, State.byteWrite2, State.byteWrite1, State.byteWrite0, State.byteControl, hc]

end Sys2Proof.Machine
end

