-- ==== Sys2Proof/Laws/Line.lean ====
section
/-! SUPPORT. What one line leaves, field by field: the sequencer position, the context, the port events, and what no line touches. -/

namespace Sys2Proof.Machine

/-- The sequencer position of the requester after line `l`; `p` is the position with the line taken off. -/
def lineSeq (p : Progress) (l : Line) (s : State) : Option Progress :=
  match l with
  | .alloc => some (if s.env.nextAlloc then p else { p with todo := [.freeContext .allocationFailure] })
  | .openTransport => some (if s.env.nextOpen then p else { p with todo := [.freeContext .backendOpenFailure] })
  | .createLock => some (if s.env.nextCreate then p else { p with todo := [.closeTransport, .freeContext .allocationFailure] })
  | .nibbleWrite _ _ inByte => some (if s.env.nextWrite.isOk then p else p.raiseTransfer inByte)
  | .rawWrite _ => some (if s.env.nextWrite.isOk then p else p.raiseTransfer false)
  | .control isData => some { p with ctl := controlNibble s.cfg s.ctx.backlightOn isData }
  | .readClock => some { p with t := s.nowValue }
  | .readClockAgain => some { p with t2 := s.nowValue }
  | .readString saddr i => some { p with todo := stringTail s.cfg saddr i (Memory.read s.mem (stringAddress saddr i).toNat) }
  | .becomeReady => none
  | .freeContext _ => none
  | .ret _ => none
  | .fillDefaults _ _ => some p
  | .delay _ => some p
  | .acquire => some p
  | .waitReady => some p
  | .recordTick _ => some p
  | .release => some p
  | .invalidate => some p
  | .storeBacklight _ => some p
  | .closeTransport => some p
  | .destroyLock => some p

/-- The context after line `l`. -/
def lineCtx (r : Nat) (p : Progress) (l : Line) (s : State) : Context :=
  match l with
  | .fillDefaults address backlightOn => { s.ctx with address := address, backlightOn := backlightOn, nextReadyTick := 0 }
  | .openTransport => if s.env.nextOpen then { s.ctx with transportOpen := true } else s.ctx
  | .createLock => if s.env.nextCreate then { s.ctx with lockExists := true, lockOwner := none } else s.ctx
  | .acquire => { s.ctx with lockOwner := some r }
  | .release => { s.ctx with lockOwner := none }
  | .recordTick d => { s.ctx with nextReadyTick := p.t2 + umax s.cfg.settleFloor d }
  | .invalidate => { s.ctx with nextReadyTick := 0 }
  | .storeBacklight e => { s.ctx with backlightOn := e }
  | .closeTransport => { s.ctx with transportOpen := false }
  | .destroyLock => { s.ctx with lockExists := false, lockOwner := none }
  | .becomeReady => { s.ctx with life := .ready }
  | .freeContext _ => Context.absent
  | .alloc => s.ctx
  | .delay _ => s.ctx
  | .control _ => s.ctx
  | .nibbleWrite _ _ _ => s.ctx
  | .readClock => s.ctx
  | .waitReady => s.ctx
  | .readClockAgain => s.ctx
  | .readString _ _ => s.ctx
  | .ret _ => s.ctx
  | .rawWrite _ => s.ctx

/-- The port events of line `l`: at most one (R8). -/
def lineEvents (r : Nat) (p : Progress) (l : Line) (s : State) : List Event :=
  match l with
  | .alloc => [.alloc s.env.nextAlloc]
  | .openTransport => [.tOpen (busAddress s.ctx.address) s.cfg.i2cSpeed s.cfg.i2cTimeoutMs (s.req r).side s.env.nextOpen]
  | .createLock => [.lCreate s.env.nextCreate]
  | .delay n => [.delay n]
  | .nibbleWrite n enable _ => [.tWrite (nibbleWire s.cfg n p.ctl enable) s.env.nextWrite.isOk]
  | .rawWrite v => [.tWrite v s.env.nextWrite.isOk]
  | .acquire => [.acquire r]
  | .release => [.release r]
  | .readClock => [.now s.nowValue]
  | .readClockAgain => [.now s.nowValue]
  | .waitReady => if p.t < s.ctx.nextReadyTick then [.delay (umin (s.ctx.nextReadyTick - p.t) s.cfg.maxWait)] else []
  | .readString saddr i => [.memRead (stringAddress saddr i) (Memory.read s.mem (stringAddress saddr i).toNat)]
  | .closeTransport => [.tClose]
  | .destroyLock => [.lDestroy]
  | .becomeReady => if p.cmd.isHost then [.status r (Status.success.code s.cfg)] else []
  | .freeContext result => if p.cmd.isHost then [.status r (result.code s.cfg)] else []
  | .ret result => if p.cmd.isHost then [.status r (result.code s.cfg)] else []
  | .fillDefaults _ _ => []
  | .control _ => []
  | .recordTick _ => []
  | .invalidate => []
  | .storeBacklight _ => []

/-- The sequencer positions after requester `r`'s is set. -/
theorem State.seq_withSeq (s : State) (r r' : Nat) (x : Option Progress) :
    ((s.withSeq r x).req r').seq = if r = r' ∧ r < s.requesters.length then x else (s.req r').seq := by
  simp only [State.withSeq, State.req, State.withReq, List.getElem?_set]
  by_cases e : r = r'
  · subst e
    by_cases h : r < s.requesters.length <;> simp [h]
  · simp [e]

theorem State.lineStep_seq (s : State) (r r' : Nat) (p : Progress) (l : Line) :
    ((s.lineStep r p l).req r').seq = if r = r' ∧ r < s.requesters.length then lineSeq p l s else (s.req r').seq := by
  have key : ∀ (u : State) (x : Option Progress), u.requesters = s.requesters →
      ((u.withSeq r x).req r').seq = if r = r' ∧ r < s.requesters.length then x else (s.req r').seq := by
    intro u x h
    rw [State.seq_withSeq, State.req, State.req, h]
  cases l with
  | openTransport =>
    simp only [State.lineStep, lineSeq]
    split <;> exact key _ _ rfl
  | createLock =>
    simp only [State.lineStep, lineSeq]
    split <;> exact key _ _ rfl
  | waitReady => exact key _ _ (State.waitReady_requesters s p.t)
  | becomeReady =>
    simp only [State.lineStep, State.finish]
    split <;> exact key _ _ rfl
  | freeContext result =>
    simp only [State.lineStep, State.finish]
    split <;> exact key _ _ rfl
  | ret result =>
    simp only [State.lineStep, State.finish]
    split <;> exact key _ _ rfl
  | _ => exact key _ _ rfl

theorem State.lineStep_ctx (s : State) (r : Nat) (p : Progress) (l : Line) : (s.lineStep r p l).ctx = lineCtx r p l s := by
  cases l <;> simp only [State.lineStep, State.finish, State.writeLine, State.waitReady, lineCtx] <;> (repeat' split) <;> rfl

theorem State.lineStep_events (s : State) (r : Nat) (p : Progress) (l : Line) :
    (s.lineStep r p l).events = s.events ++ lineEvents r p l s := by
  cases l <;> simp only [State.lineStep, State.finish, State.writeLine, State.waitReady, lineEvents, State.alloc, State.tOpen,
    State.lCreate, State.events_withSeq] <;> (repeat' split) <;> simp_all <;> rfl

theorem State.lineStep_kept (s : State) (r : Nat) (p : Progress) (l : Line) :
    (s.lineStep r p l).cfg = s.cfg ∧ (s.lineStep r p l).mem = s.mem ∧ (s.lineStep r p l).cur = s.cur ∧
      (s.lineStep r p l).requesters.length = s.requesters.length ∧ (s.lineStep r p l).env.agenda = s.env.agenda ∧
      (s.lineStep r p l).env.grain = s.env.grain := by
  cases l <;> simp only [State.lineStep, State.finish, State.writeLine, State.waitReady] <;> (repeat' split) <;>
    simp [State.alloc, State.tOpen, State.lCreate]

/-- The clock does not go back. -/
theorem State.lineStep_clock (s : State) (r : Nat) (p : Progress) (l : Line) :
    s.env.clock ≤ (s.lineStep r p l).env.clock := by
  cases l <;> simp only [State.lineStep, State.finish, State.writeLine, State.waitReady] <;> (repeat' split) <;>
    simp [State.alloc, State.tOpen, State.lCreate, Env.tick, Env.popWrite, Env.popAlloc, Env.popOpen, Env.popCreate] <;> omega

/-- No entry leaves the history. -/
theorem State.lineStep_history (s : State) (r : Nat) (p : Progress) (l : Line) :
    s.history <+: (s.lineStep r p l).history := by
  cases l <;> simp only [State.lineStep, State.finish, State.writeLine, State.waitReady] <;> (repeat' split) <;>
    simp [State.alloc, State.tOpen, State.lCreate, State.delay, State.now, State.tWrite]

/-- A requester that can move has a line with a step, and performs it; at the very end its command is over. -/
theorem State.perform_cases {s : State} {r : Nat} (h : s.canMove r = true) :
    ∃ p, (s.req r).seq = some p ∧
      ((p.todo = [] ∧ s.perform r = s.withSeq r none) ∨
       (∃ l rest, p.todo = l :: rest ∧ s.hindrance r l = none ∧ s.perform r = s.lineStep r { p with todo := rest } l)) := by
  unfold State.canMove at h
  cases hp : (s.req r).seq with
  | none => simp [hp] at h
  | some p =>
    refine ⟨p, rfl, ?_⟩
    cases ht : p.todo with
    | nil => exact .inl ⟨rfl, by simp [State.perform, hp, ht]⟩
    | cons l rest =>
      refine .inr ⟨l, rest, rfl, ?_, by simp [State.perform, hp, ht]⟩
      simp only [State.blocked, hp, ht, List.head?_cons, Option.bind_some, Option.isSome_some, Bool.true_and,
        Option.isNone_iff_eq_none] at h
      exact h

/-! ### How far `exec` runs has no part in a line. -/

theorem State.lineStep_byLine (s : State) (r : Nat) (p : Progress) (l : Line) :
    s.byLine.lineStep r p l = (s.lineStep r p l).byLine := by
  cases l <;> simp only [State.lineStep, State.finish, State.writeLine, State.waitReady] <;> (repeat' split) <;>
    first | rfl | (exfalso; simp_all [State.byLine, Env.nextOpen, Env.nextCreate, Env.nextAlloc, Env.nextWrite])

theorem State.perform_byLine (s : State) (r : Nat) : s.byLine.perform r = (s.perform r).byLine := by
  unfold State.perform
  rw [show s.byLine.req r = s.req r from rfl]
  split
  · rfl
  · split
    · rfl
    · exact State.lineStep_byLine s r _ _

/-- A run of lines is the same at either grain (log 3). -/
theorem State.runLines_byLine (n r : Nat) (s : State) : State.runLines n r s.byLine = (State.runLines n r s).byLine := by
  induction n generalizing s with
  | zero => rfl
  | succ n ih => 
    rw [State.runLines, State.runLines, show s.byLine.canMove r = s.canMove r from rfl]
    split
    · rw [State.perform_byLine, ih]
    · rfl

theorem State.arrive_byLine (s : State) (i : Instr) (ls : List Line) : s.byLine.arrive i ls = (s.arrive i ls).byLine := by
  unfold State.arrive; split <;> rfl

/-- What the arrival of a command leaves. -/
theorem State.arrive_seq (s : State) (i : Instr) (lines : List Line) (r : Nat) :
    ((s.arrive i lines).req r).seq = if s.cur = r ∧ s.cur < s.requesters.length then some ⟨i, lines, 0, 0, 0⟩ else (s.req r).seq := by
  unfold State.arrive
  rw [State.seq_withSeq]
  split <;> rfl

theorem State.arrive_kept (s : State) (i : Instr) (lines : List Line) :
    (s.arrive i lines).cfg = s.cfg ∧ (s.arrive i lines).ctx = s.ctx ∧ (s.arrive i lines).mem = s.mem ∧
      (s.arrive i lines).cur = s.cur ∧ (s.arrive i lines).requesters.length = s.requesters.length ∧
      (s.arrive i lines).expander = s.expander ∧ s.env.clock ≤ (s.arrive i lines).env.clock ∧
      s.history <+: (s.arrive i lines).history := by
  unfold State.arrive
  split <;> simp [Env.tick]

theorem State.arrive_events (s : State) (i : Instr) (lines : List Line) :
    (s.arrive i lines).events = s.events ++ cmdEvents s i := by
  unfold State.arrive cmdEvents
  rw [State.events_withSeq]
  split <;> simp

end Sys2Proof.Machine
end

