-- ==== Sys2Proof/Laws/Memory.lean ====
section
/-! SUPPORT. Host string memory: the canonical form is kept, a read after a write. -/

namespace Sys2Proof.Machine

theorem Memory.wfFrom_mono {lo lo' : Nat} (h : lo' ≤ lo) : ∀ {m : List Host.Cell}, Memory.wfFrom lo m = true →
    Memory.wfFrom lo' m = true
  | [], _ => rfl
  | (a, v) :: m, hw => by
    simp only [Memory.wfFrom, Bool.and_eq_true, decide_eq_true_eq] at hw ⊢
    exact ⟨⟨⟨by omega, hw.1.1.2⟩, hw.1.2⟩, hw.2⟩

theorem Memory.push_wf {lo x : Nat} {v : Byte} {m : List Host.Cell} (hlo : lo ≤ x) (hx : x < 65536)
    (hm : Memory.wfFrom (x + 1) m = true) : Memory.wfFrom lo (Memory.push x v m) = true := by
  unfold Memory.push
  split
  · exact Memory.wfFrom_mono (by omega) hm
  · simp_all [Memory.wfFrom]

theorem Memory.write_wfFrom {x : Nat} (v : Byte) (hx : x < 65536) : ∀ {m : List Host.Cell} {lo : Nat}, lo ≤ x →
    Memory.wfFrom lo m = true → Memory.wfFrom lo (Memory.write m x v) = true
  | [], lo, hlo, _ => Memory.push_wf hlo hx rfl
  | (a, w) :: m, lo, hlo, hw => by
    have hw' := hw
    simp only [Memory.wfFrom, Bool.and_eq_true, decide_eq_true_eq] at hw'
    obtain ⟨⟨⟨h1, h2⟩, h3⟩, h4⟩ := hw'
    unfold Memory.write
    split
    · exact Memory.push_wf hlo hx (by simp_all [Memory.wfFrom])
    · split
      · subst_vars; exact Memory.push_wf hlo hx h4
      · simp only [Memory.wfFrom, Bool.and_eq_true, decide_eq_true_eq]
        exact ⟨⟨⟨h1, h2⟩, h3⟩, Memory.write_wfFrom v hx (by omega) h4⟩

/-- A store keeps the canonical form. -/
theorem Memory.write_wf {m : List Host.Cell} (h : Memory.wf m = true) (x : BitVec 16) (v : Byte) :
    Memory.wf (Memory.write m x.toNat v) = true := Memory.write_wfFrom v (by omega) (by omega) h

theorem Memory.read_below {lo x : Nat} : ∀ {m : List Host.Cell}, Memory.wfFrom lo m = true → x < lo →
    Memory.read m x = Memory.blank
  | [], _, _ => rfl
  | (a, w) :: m, hw, hx => by
    simp only [Memory.wfFrom, Bool.and_eq_true, decide_eq_true_eq] at hw
    unfold Memory.read
    rw [if_neg (by omega), Memory.read_below hw.2 (by omega)]

theorem Memory.read_push {x y : Nat} {v : Byte} {m : List Host.Cell} (hm : Memory.wfFrom (x + 1) m = true) :
    Memory.read (Memory.push x v m) y = if y = x then v else Memory.read m y := by
  unfold Memory.push
  split
  · split
    · rw [Memory.read_below hm (by omega)]; simp_all
    · rfl
  · simp only [Memory.read, eq_comm]

theorem Memory.read_write_from {x y : Nat} (v : Byte) : ∀ {m : List Host.Cell} {lo : Nat}, Memory.wfFrom lo m = true →
    Memory.read (Memory.write m x v) y = if y = x then v else Memory.read m y
  | [], _, _ => Memory.read_push rfl
  | (a, w) :: m, lo, hw => by
    have hw' := hw
    simp only [Memory.wfFrom, Bool.and_eq_true, decide_eq_true_eq] at hw'
    obtain ⟨⟨⟨h1, h2⟩, h3⟩, h4⟩ := hw'
    unfold Memory.write
    split
    · rw [Memory.read_push (by simp_all [Memory.wfFrom])]
    · split
      · subst_vars
        rw [Memory.read_push h4]
        simp only [Memory.read]
        split
        · rfl
        · rw [if_neg (by omega)]
      · simp only [Memory.read]
        split
        · rw [if_neg (by omega)]
        · exact Memory.read_write_from v h4

/-- A read after a store gives the byte stored at its address and leaves every other address alone. -/
theorem Memory.read_write {m : List Host.Cell} (h : Memory.wf m = true) (x y : Nat) (v : Byte) :
    Memory.read (Memory.write m x v) y = if y = x then v else Memory.read m y := Memory.read_write_from v h

theorem Memory.reset_wf : Memory.wf State.reset.mem = true := rfl

end Sys2Proof.Machine
end

