-- ==== Sys2Proof/Laws/PerInstr.lean ====
section
/-! SUPPORT. For every instruction: its encoded word shows the must-be-zero and must-be-one bits of its row of
spec/opcode_table.json. -/

namespace Sys2Proof.Laws

/-- The `mask` column of the instruction's row. -/
def rowMask : Instr → BitVec 24
  | .init _ _ => 0xFF00FE
  | .deinit => 0xFFFFFF
  | .clear => 0xFFFFFF
  | .home => 0xFFFFFF
  | .setDisplay _ _ _ => 0xFFFFF8
  | .setEntryMode _ _ => 0xFFFFFC
  | .setCursor _ _ => 0xFF0000
  | .scroll _ _ => 0xFFFFFC
  | .setBacklight _ => 0xFFFFFE
  | .writeChar _ => 0xFFFF00
  | .writeString _ => 0xFF0000
  | .kClear => 0xFF
  | .kHome _ => 0xFE
  | .kEntryModeSet _ _ => 0xFC
  | .kDisplayControl _ _ _ => 0xF8
  | .kShift _ _ _ => 0xF0
  | .kFunctionSet _ _ _ _ => 0xE0
  | .kSetCgramAddr _ => 0xC0
  | .kSetDdramAddr _ => 0x80
  | .wireByte _ _ _ _ => 0x02

/-- The `match` column of the instruction's row. -/
def rowMatch : Instr → BitVec 24
  | .init _ _ => 0x000000
  | .deinit => 0x010000
  | .clear => 0x020000
  | .home => 0x030000
  | .setDisplay _ _ _ => 0x040000
  | .setEntryMode _ _ => 0x050000
  | .setCursor _ _ => 0x060000
  | .scroll _ _ => 0x070000
  | .setBacklight _ => 0x080000
  | .writeChar _ => 0x090000
  | .writeString _ => 0x0A0000
  | .kClear => 0x01
  | .kHome _ => 0x02
  | .kEntryModeSet _ _ => 0x04
  | .kDisplayControl _ _ _ => 0x08
  | .kShift _ _ _ => 0x10
  | .kFunctionSet _ _ _ _ => 0x20
  | .kSetCgramAddr _ => 0x40
  | .kSetDdramAddr _ => 0x80
  | .wireByte _ _ _ _ => 0x00

/-- A host word under a mask given byte by byte. -/
theorem hostWord_and {op a b m0 m1 m2 : Byte} :
    (hostWord op a b).bits24 &&& (m0 ++ m1 ++ m2) = (op &&& m0) ++ (a &&& m1) ++ (b &&& m2) := by
  apply BitVec.eq_of_getLsbD_eq
  intro i _
  simp only [hostWord, Word.bits24, BitVec.getLsbD_and, BitVec.getLsbD_append]
  split
  · rfl
  · split <;> rfl

/-- The encoded word of the instruction, with the default parameters, lies in its row. -/
def TableMatch.Statement (i : Instr) : Prop := (encode Config.default i).bits24 &&& rowMask i = rowMatch i

theorem TableMatch.init (address : Byte) (backlightOn : Bool) : TableMatch.Statement (.init address backlightOn) := by
  have h := @hostWord_and 0x00 address (0#7 ++ bit backlightOn) 0xFF 0x00 0xFE
  refine h.trans ?_
  cases backlightOn <;> simp [bit, rowMatch]
theorem TableMatch.deinit : TableMatch.Statement .deinit := by unfold TableMatch.Statement; decide
theorem TableMatch.clear : TableMatch.Statement .clear := by unfold TableMatch.Statement; decide
theorem TableMatch.home : TableMatch.Statement .home := by unfold TableMatch.Statement; decide
theorem TableMatch.setDisplay (d c b : Bool) : TableMatch.Statement (.setDisplay d c b) := by
  unfold TableMatch.Statement; cases d <;> cases c <;> cases b <;> decide
theorem TableMatch.setEntryMode (l a : Bool) : TableMatch.Statement (.setEntryMode l a) := by
  unfold TableMatch.Statement; cases l <;> cases a <;> decide
theorem TableMatch.setCursor (row column : Byte) : TableMatch.Statement (.setCursor row column) := by
  refine (@hostWord_and 0x06 row column 0xFF 0x00 0x00).trans ?_
  simp [rowMatch]
theorem TableMatch.scroll (t d : Bool) : TableMatch.Statement (.scroll t d) := by
  unfold TableMatch.Statement; cases t <;> cases d <;> decide
theorem TableMatch.setBacklight (e : Bool) : TableMatch.Statement (.setBacklight e) := by
  unfold TableMatch.Statement; cases e <;> decide
theorem TableMatch.writeChar (c : Byte) : TableMatch.Statement (.writeChar c) := by
  refine (@hostWord_and 0x09 0 c 0xFF 0xFF 0x00).trans ?_
  simp [rowMatch]
theorem TableMatch.writeString (saddr : BitVec 16) : TableMatch.Statement (.writeString saddr) := by
  refine (@hostWord_and 0x0A (saddr.extractLsb' 8 8) (saddr.extractLsb' 0 8) 0xFF 0x00 0x00).trans ?_
  simp [rowMatch]
theorem TableMatch.kClear : TableMatch.Statement .kClear := by unfold TableMatch.Statement; decide
theorem TableMatch.kHome (x : Bool) : TableMatch.Statement (.kHome x) := by
  unfold TableMatch.Statement; cases x <;> decide
theorem TableMatch.kEntryModeSet (i s : Bool) : TableMatch.Statement (.kEntryModeSet i s) := by
  unfold TableMatch.Statement; cases i <;> cases s <;> decide
theorem TableMatch.kDisplayControl (d c b : Bool) : TableMatch.Statement (.kDisplayControl d c b) := by
  unfold TableMatch.Statement; cases d <;> cases c <;> cases b <;> decide
theorem TableMatch.kShift (t r : Bool) (x : BitVec 2) : TableMatch.Statement (.kShift t r x) := by
  unfold TableMatch.Statement; revert x; cases t <;> cases r <;> decide
theorem TableMatch.kFunctionSet (l n f : Bool) (x : BitVec 2) : TableMatch.Statement (.kFunctionSet l n f x) := by
  unfold TableMatch.Statement; revert x; cases l <;> cases n <;> cases f <;> decide
theorem TableMatch.kSetCgramAddr (a : BitVec 6) : TableMatch.Statement (.kSetCgramAddr a) := by
  unfold TableMatch.Statement; revert a; decide
theorem TableMatch.kSetDdramAddr (a : BitVec 7) : TableMatch.Statement (.kSetDdramAddr a) := by
  unfold TableMatch.Statement; revert a; decide
theorem TableMatch.wireByte (v : Nibble) (b e r : Bool) : TableMatch.Statement (.wireByte v b e r) := by
  unfold TableMatch.Statement; revert v; cases b <;> cases e <;> cases r <;> decide

end Sys2Proof.Laws
end

