-- ==== Sys2Proof/Laws/Step.lean ====
section
/-! SUPPORT. What a step can do, said once: which command starts and with which lines, what running an instruction answers, what a
step answers, and the one induction that carries an invariant through a step. -/

namespace Sys2Proof.Machine

/-- The lines a command other than INIT and DEINIT starts with. -/
def startLines (c : Config) (i : Instr) : List Line :=
  match i with
  | .init _ _ => []
  | .deinit => []
  | .clear => byteLines c false c.cmdClear c.delayClear ++ [.ret .success]
  | .home => byteLines c false c.cmdHome c.delayHome ++ [.ret .success]
  | .setDisplay x y z => byteLines c false (displayControlByte c x y z) c.delayDisplayControl ++ [.ret .success]
  | .setEntryMode x y => byteLines c false (entryModeByte c x y) c.delayEntryMode ++ [.ret .success]
  | .setCursor row column =>
    if cursorInRange c row column then
      byteLines c false (setDdramByte c (ddramAddress c row column)) c.delaySetDdram ++ [.ret .success]
    else [.ret .invalidArgument]
  | .scroll x y => byteLines c false (shiftByte c x y) c.delayShift ++ [.ret .success]
  | .setBacklight e => [.acquire, .storeBacklight e, .release, .ret .success]
  | .writeChar b => byteLines c true b c.delayData ++ [.ret .success]
  | .writeString saddr => stringLines c saddr 0
  | .kClear => byteLines c false c.cmdClear c.delayClear ++ [.ret .success]
  | .kHome _ => byteLines c false c.cmdHome c.delayHome ++ [.ret .success]
  | .kEntryModeSet x y => byteLines c false (entryModeByte c x y) c.delayEntryMode ++ [.ret .success]
  | .kDisplayControl x y z => byteLines c false (displayControlByte c x y z) c.delayDisplayControl ++ [.ret .success]
  | .kShift x y _ => byteLines c false (shiftByte c x y) c.delayShift ++ [.ret .success]
  | .kFunctionSet l n f _ => byteLines c false (functionSetByte c l n f) c.delayFunctionSet ++ [.ret .success]
  | .kSetCgramAddr _ => []
  | .kSetDdramAddr a => byteLines c false (setDdramByte c (a.zeroExtend 8)) c.delaySetDdram ++ [.ret .success]
  | .wireByte v b e r => [.rawWrite (wireByteOf c v b e r), .ret .success]

/-- Instruction `i` starts at `s`: the current requester is idle, the command is admitted, and `start` is the state right after its
arrival. -/
def Starts (i : Instr) (s start : State) : Prop :=
  (s.req s.cur).seq = none ∧ s.cur < s.requesters.length ∧ s.cfg.legal = true ∧ i.wellFormed = true ∧
  ((∃ a b, i = .init a b ∧ s.ctx.life = .absent ∧ start = (s.arrive i (initLines s.cfg a b)).withLife .constructing) ∨
   (i = .deinit ∧ s.unlessDeinit = none ∧ start = s.arrive i deinitLines) ∨
   (i.lifecycle = false ∧ s.unlessReady = none ∧ start = s.arrive i (startLines s.cfg i)))

/-- What running a command answers when it answers a next state. -/
theorem State.runCommand_next {s started t : State} {i : Instr} {lc : Option Refusal}
    (h : s.runCommand i lc started = .next t) :
    (∃ p n, (s.req s.cur).seq = some p ∧ p.cmd = i ∧ s.canMove s.cur = true ∧ t = State.runLines n s.cur s ∧
        n = if s.alone then s.budget else 1) ∨
      ((s.req s.cur).seq = none ∧ s.cur < s.requesters.length ∧ s.cfg.legal = true ∧ lc = none ∧
        t = State.runLines (if s.alone then s.budget else 0) s.cur started) := by
  unfold State.runCommand at h
  split at h
  · rename_i p hp
    split at h
    · rename_i hc
      unfold State.resume at h
      split at h
      · cases h
      · rename_i hb
        cases h
        exact .inl ⟨p, _, hp, hc, by simp [State.canMove, hp, hb], rfl, rfl⟩
    · cases h
  · rename_i hp
    split at h
    · cases h
    · rename_i ha
      unfold State.admission at ha
      split at ha
      · split at ha
        · rename_i hr hl
          refine .inr ⟨hp, hr, hl, ha, ?_⟩
          cases h
          split <;> rfl
        · cases ha
      · cases ha

/-- What running an instruction answers when it answers a next state: it goes on with the command in progress, or it starts it, and
then it runs lines. -/
theorem exec_next {i : Instr} {s t : State} (h : exec i s = .next t) :
    (∃ p n, (s.req s.cur).seq = some p ∧ p.cmd = i ∧ s.canMove s.cur = true ∧ t = State.runLines n s.cur s ∧
        n = if s.alone then s.budget else 1) ∨
      (∃ start, Starts i s start ∧ t = State.runLines (if s.alone then s.budget else 0) s.cur start) := by
  have key : ∀ {lc : Option Refusal} {lines : List Line}, i.wellFormed = true → i.lifecycle = false → lc = s.unlessReady →
      lines = startLines s.cfg i → s.runCommand i lc (s.arrive i lines) = .next t →
      (∃ p n, (s.req s.cur).seq = some p ∧ p.cmd = i ∧ s.canMove s.cur = true ∧ t = State.runLines n s.cur s ∧
        n = if s.alone then s.budget else 1) ∨
      (∃ start, Starts i s start ∧ t = State.runLines (if s.alone then s.budget else 0) s.cur start) := by
    intro lc lines hw hl h1 h2 h
    subst h1 h2
    rcases State.runCommand_next h with h | ⟨a, b, c, d, e⟩
    · exact Or.inl h
    · exact Or.inr ⟨_, ⟨a, b, c, hw, .inr (.inr ⟨hl, d, rfl⟩)⟩, e⟩
  cases i with
  | init a b =>
    rcases State.runCommand_next h with h | ⟨h1, h2, h3, h4, h5⟩
    · exact .inl h
    · refine .inr ⟨_, ⟨h1, h2, h3, rfl, .inl ⟨a, b, rfl, ?_, rfl⟩⟩, h5⟩
      unfold State.unlessAbsent at h4
      split at h4
      · assumption
      · cases h4
  | deinit =>
    rcases State.runCommand_next h with h | ⟨h1, h2, h3, h4, h5⟩
    · exact .inl h
    · exact .inr ⟨_, ⟨h1, h2, h3, rfl, .inr (.inl ⟨rfl, h4, rfl⟩)⟩, h5⟩
  | setCursor row column =>
    simp only [exec, execSetCursor] at h
    split at h
    · rename_i hc; exact key rfl rfl rfl (by simp [startLines, hc]) h
    · rename_i hc; exact key rfl rfl rfl (by simp [startLines, hc]) h
  | kFunctionSet l n f x =>
    simp only [exec, execKFunctionSet] at h
    split at h
    · rename_i hw; exact key hw rfl rfl rfl h
    · cases h
  | kSetCgramAddr a => cases h
  | _ => exact key rfl rfl rfl rfl h

/-- Run by one line, an admitted command only arrives. -/
theorem State.runCommand_byLine {s started started' : State} {i : Instr} {lc : Option Refusal} {t : State}
    (h : s.runCommand i lc started = .next t) (hq : (s.req s.cur).seq = none) (e : started' = started.byLine) :
    s.byLine.runCommand i lc started' = .next started.byLine := by
  subst e
  obtain ⟨p, n, hp, -⟩ | ⟨-, h1, h2, h3, h4⟩ := State.runCommand_next h
  · rw [hq] at hp; cases hp
  · unfold State.runCommand
    show (match (s.req s.cur).seq with | some _ => _ | none => _) = _
    rw [hq]
    simp only
    have : s.byLine.admission lc = none := by
      unfold State.admission
      show (if s.cur < s.requesters.length then (if s.cfg.legal then lc else _) else _) = _
      simp [h1, h2, h3]
    rw [this]; simp [State.byLine_alone]

/-- An instruction that starts: its whole run goes on from the state right after its arrival, which is what one line of it leaves. -/
theorem exec_start {s t : State} {i : Instr} (hq : (s.req s.cur).seq = none) (h : exec i s = .next t) :
    ∃ start, Starts i s start ∧ t = State.runLines (if s.alone then s.budget else 0) s.cur start ∧ exec i s.byLine = .next start.byLine := by
  obtain ⟨p, n, hp, -⟩ | ⟨start, hs, ht⟩ := exec_next h
  · rw [hq] at hp; cases hp
  refine ⟨start, hs, ht, ?_⟩
  obtain ⟨-, -, -, hw, hs⟩ := hs
  rcases hs with ⟨a, b, rfl, -, rfl⟩ | ⟨rfl, -, rfl⟩ | ⟨hl, -, rfl⟩
  · exact State.runCommand_byLine h hq (congrArg (State.withLife .constructing) (State.arrive_byLine s _ _))
  · exact State.runCommand_byLine h hq (State.arrive_byLine s _ _)
  · have key : ∀ ls, s.byLine.arrive i ls = (s.arrive i ls).byLine := State.arrive_byLine s i
    cases i with
    | setCursor row column =>
      simp only [exec, execSetCursor] at h ⊢
      show (if cursorInRange s.cfg row column then _ else _) = _
      by_cases hc : cursorInRange s.cfg row column = true
      · simp only [hc, if_true] at h ⊢
        simp only [startLines, hc, if_true]
        exact State.runCommand_byLine h hq (key _)
      · simp only [hc, if_false, Bool.false_eq_true] at h ⊢
        simp only [startLines, hc, if_false, Bool.false_eq_true]
        exact State.runCommand_byLine h hq (key _)
    | kFunctionSet l n f x =>
      simp only [exec, execKFunctionSet] at h ⊢
      rw [if_pos hw] at h ⊢
      exact State.runCommand_byLine h hq (key _)
    | kSetCgramAddr a => cases h
    | init a b => cases hl
    | deinit => cases hl
    | _ => exact State.runCommand_byLine h hq (key _)

/-- A line acts on behalf of a requester and leaves `cur` as it is. -/
theorem State.perform_cur (s : State) (r : Nat) : (s.perform r).cur = s.cur := by
  unfold State.perform
  split
  · rfl
  · split
    · rfl
    · rename_i p _ l rest _
      cases l <;> simp only [State.lineStep, State.writeLine, State.finish] <;> (try split) <;>
        simp [State.alloc, State.tOpen, State.lCreate]

/-- An invariant that every line and every start keeps is kept by every instruction. -/
theorem exec_keeps {P : State → Prop} (hline : ∀ s, P s → s.canMove s.cur = true → P (s.perform s.cur))
    (hstart : ∀ i s start, P s → Starts i s start → P start) {i : Instr} {s t : State} (hs : P s) (h : exec i s = .next t) : P t := by
  have run : ∀ n s, P s → P (State.runLines n s.cur s) := by
    intro n
    induction n with
    | zero => intro s hs; exact hs
    | succ n ih =>
      intro s hs
      rw [State.runLines]
      split
      · rename_i hm
        have := ih (s.perform s.cur) (hline s hs hm)
        rwa [State.perform_cur] at this
      · exact hs
  rcases exec_next h with ⟨p, n, -, -, -, rfl, -⟩ | ⟨start, hst, rfl⟩
  · exact run _ _ hs
  · have hc : start.cur = s.cur := by
      obtain ⟨-, -, -, -, ⟨a, b, rfl, -, rfl⟩ | ⟨rfl, -, rfl⟩ | ⟨-, -, rfl⟩⟩ := hst <;>
        (unfold State.arrive; split <;> rfl)
    have := run (if s.alone then s.budget else 0) start (hstart i s start hs hst)
    rwa [hc] at this

/-- What the turn of a requester can answer. -/
theorem State.turnOf_next {u t : State} {r : Nat} (h : (u.turnOf r).outcome = .next t) :
    (∃ p, (u.req r).seq = some p ∧ exec p.cmd (u.withCur r).byLine = .next t) ∨
      (∃ w rest i, (u.req r).seq = none ∧ (u.req r).port = w :: rest ∧ decodeHost w.word = .ok i ∧
        exec i (u.take r w rest).byLine = .next t) ∨ t = u.idleFor 0 := by
  unfold State.turnOf at h
  split at h
  · rename_i p hp; exact .inl ⟨p, hp, h⟩
  · rename_i hp
    split at h
    · cases h; exact .inr (.inr rfl)
    · rename_i w rest hq
      split at h
      · cases h
      · rename_i i hd; exact .inr (.inl ⟨w, rest, i, hp, hq, hd, h⟩)

/-- What the turn of a laid-down internal operation can answer. -/
theorem State.innerTurn_next {u t : State} {r : Nat} {w : InnerWord} (h : (u.innerTurn r w).outcome = .next t) :
    (∃ i, (u.req r).seq = none ∧ decode u.cfg w.word = .ok i ∧ exec i (u.withCur r).byLine = .next t) ∨ t = u.idleFor 0 := by
  unfold State.innerTurn at h
  split at h
  · cases h; exact .inr rfl
  · rename_i hp
    split at h
    · cases h
    · rename_i i hd; exact .inl ⟨i, hp, hd, h⟩

/-- What a step can do: an agent's turn runs an instruction by one line, or time passes, or the host stores a byte or presents a word, or
a move passes over a requester that has no step. `s0` differs from `s` in the agenda and the draws only. -/
theorem step_next {s t : State} (h : step s = .next t) :
    ∃ (agenda : List Move) (draws : Nat),
      let s0 := s.withEnv { s.env with agenda := agenda, draws := draws }
      (∃ r p, (s0.req r).seq = some p ∧ exec p.cmd (s0.withCur r).byLine = .next t) ∨
      (∃ r w rest i, (s0.req r).seq = none ∧ (s0.req r).port = w :: rest ∧ decodeHost w.word = .ok i ∧
        exec i (s0.take r w rest).byLine = .next t) ∨
      (∃ r w i, (s0.req r).seq = none ∧ decode s0.cfg (InnerWord.word w) = .ok i ∧ exec i (s0.withCur r).byLine = .next t) ∨
      (∃ n, t = s0.idleFor n) ∨
      (∃ addr value moves, s.env.agenda = .store addr value :: moves ∧ t = s0.withMem (Memory.write s0.mem addr.toNat value)) ∨
      (∃ r w, t = s0.withReq r { s0.req r with port := (s0.req r).port ++ [w] }) ∨
      t = s.withEnv (s.env.tick 0) := by
  unfold step State.nextTurn at h
  split at h
  · rename_i m moves hm
    refine ⟨moves, s.env.draws, ?_⟩
    unfold State.moveTurn at h
    split at h
    · rename_i r
      split at h
      · rcases State.turnOf_next h with ⟨p, hp, hx⟩ | ⟨w, rest, j, h1, h2, h3, h4⟩ | hx
        · exact .inl ⟨r, p, hp, hx⟩
        · exact .inr (.inl ⟨r, w, rest, j, h1, h2, h3, h4⟩)
        · exact .inr (.inr (.inr (.inl ⟨0, hx⟩)))
      · cases h; exact .inr (.inr (.inr (.inl ⟨0, rfl⟩)))
    · rename_i n; cases h; exact .inr (.inr (.inr (.inl ⟨n, rfl⟩)))
    · rename_i a v; cases h; exact .inr (.inr (.inr (.inr (.inl ⟨a, v, moves, hm, rfl⟩))))
    · rename_i r w; cases h; exact .inr (.inr (.inr (.inr (.inr (.inl ⟨r, w, rfl⟩)))))
    · rename_i r w
      rcases State.innerTurn_next h with ⟨i, h1, h2, h3⟩ | hx
      · exact .inr (.inr (.inl ⟨r, w, i, h1, h2, h3⟩))
      · exact .inr (.inr (.inr (.inl ⟨0, hx⟩)))
  · rename_i hm
    split at h
    · rename_i r rs _
      refine ⟨s.env.agenda, (s.afterChoice rs).env.draws, ?_⟩
      have e : s.withEnv { s.env with agenda := s.env.agenda, draws := (s.afterChoice rs).env.draws } = s.afterChoice rs := by
        unfold State.afterChoice; split <;> rfl
      rw [e]
      rcases State.turnOf_next h with ⟨p, hp, hx⟩ | ⟨w, rest, j, h1, h2, h3, h4⟩ | hx
      · exact .inl ⟨_, p, hp, hx⟩
      · exact .inr (.inl ⟨_, w, rest, j, h1, h2, h3, h4⟩)
      · exact .inr (.inr (.inr (.inl ⟨0, hx⟩)))
    · split at h
      · cases h; exact ⟨[], 0, .inr (.inr (.inr (.inr (.inr (.inr rfl)))))⟩
      · cases h

/-- What happens outside the commands: time passes, the host presents a word or stores a byte, a word leaves its port, the turn goes to
another requester. The context, the sequencer positions and the history stay. -/
def OutsideMove (s u : State) : Prop :=
  u.cfg = s.cfg ∧ u.ctx = s.ctx ∧ u.expander = s.expander ∧ u.history = s.history ∧ u.requesters.length = s.requesters.length ∧
    (∀ r, (u.req r).seq = (s.req r).seq) ∧ s.env.clock ≤ u.env.clock

theorem State.seq_withReq_same {s : State} (r : Nat) {q : Requester} (h : q.seq = (s.req r).seq) (r' : Nat) :
    ((s.withReq r q).req r').seq = (s.req r').seq := by
  simp only [State.req, State.withReq, List.getElem?_set]
  split
  · rename_i e
    subst e
    split
    · simpa [State.req] using h
    · rename_i hn
      simp [List.getElem?_eq_none (Nat.le_of_not_lt hn)]
  · rfl

/-- The induction of the machine: what the moves outside, every line and every start keep, every step keeps. -/
theorem step_keeps {P : State → Prop} (hout : ∀ s u, P s → OutsideMove s u → P u)
    (hline : ∀ s, P s → s.canMove s.cur = true → P (s.perform s.cur))
    (hstart : ∀ i s start, P s → Starts i s start → P start) {s t : State} (hs : P s) (h : step s = .next t) : P t := by
  obtain ⟨agenda, draws, h⟩ := step_next h
  have h0 : P (s.withEnv { s.env with agenda := agenda, draws := draws }) :=
    hout s _ hs ⟨rfl, rfl, rfl, rfl, rfl, fun _ => rfl, Nat.le_refl _⟩
  simp only at h
  generalize s.withEnv { s.env with agenda := agenda, draws := draws } = u at h h0
  obtain ⟨r, p, -, hx⟩ | ⟨r, w, rest, i, -, -, -, hx⟩ | ⟨r, w, i, -, -, hx⟩ | ⟨n, rfl⟩ | ⟨a, v, m, -, rfl⟩ | ⟨r, w, rfl⟩ | rfl := h
  · exact exec_keeps hline hstart (hout u (u.withCur r).byLine h0 ⟨rfl, rfl, rfl, rfl, rfl, fun _ => rfl, Nat.le_refl _⟩) hx
  · refine exec_keeps hline hstart (hout u (u.take r w rest).byLine h0 ⟨rfl, rfl, rfl, rfl, by simp [State.byLine, State.withEnv, State.take, State.withCur, State.withReq], ?_, Nat.le_refl _⟩) hx
    exact State.seq_withReq_same (s := u) r (q := { u.req r with port := rest, side := w.side }) rfl
  · exact exec_keeps hline hstart (hout u (u.withCur r).byLine h0 ⟨rfl, rfl, rfl, rfl, rfl, fun _ => rfl, Nat.le_refl _⟩) hx
  · exact hout u _ h0 ⟨rfl, rfl, rfl, rfl, rfl, fun _ => rfl, Nat.le_add_right _ _⟩
  · exact hout u _ h0 ⟨rfl, rfl, rfl, rfl, rfl, fun _ => rfl, Nat.le_refl _⟩
  · exact hout u _ h0 ⟨rfl, rfl, rfl, rfl, by simp [State.withReq], State.seq_withReq_same r rfl, Nat.le_refl _⟩
  · exact hout s _ hs ⟨rfl, rfl, rfl, rfl, rfl, fun _ => rfl, by simp [State.withEnv, Env.tick]⟩

end Sys2Proof.Machine
end

