-- ==== Sys2Proof/Tests/Slice0.lean ====
section
/-! SUPPORT. Tests of the model on the vectors of spec/95_test_vectors.md, and for every statement with hypotheses a concrete state
and operands that meet them together. -/

namespace Sys2Proof.Tests

open Sys2Proof Sys2Proof.Machine

/-! ### Ill-formed terms (R80) -/

theorem test_illformed_setCgramAddr : (Instr.kSetCgramAddr 5).wellFormed = false := by decide
theorem test_illformed_functionSet_eightBit : (Instr.kFunctionSet true true false 0).wellFormed = false := by decide
theorem test_illformed_functionSet_oneLine : (Instr.kFunctionSet false false false 0).wellFormed = false := by decide
theorem test_illformed_functionSet_tall : (Instr.kFunctionSet false true true 0).wellFormed = false := by decide
theorem test_wellformed_functionSet : (Instr.kFunctionSet false true false 0).wellFormed = true := by decide

/-! ### Words written out from the spec's encodings (95 section 2.12; spec/opcode_table.json; R71, R74) -/

theorem test_decode_init : decodeTableWord 24 0x003F00 = some (.init 0x3F false) := by decide
theorem test_decode_init_high : decodeTableWord 24 0x00FF01 = some (.init 0xFF true) := by decide
theorem test_decode_deinit : decodeTableWord 24 0x010000 = some .deinit := by decide
theorem test_decode_clear : decodeTableWord 24 0x020000 = some .clear := by decide
theorem test_decode_home : decodeTableWord 24 0x030000 = some .home := by decide
theorem test_decode_setDisplay : decodeTableWord 24 0x040004 = some (.setDisplay true false false) := by decide
theorem test_decode_setEntryMode : decodeTableWord 24 0x050002 = some (.setEntryMode true false) := by decide
theorem test_decode_setCursor : decodeTableWord 24 0x060103 = some (.setCursor 1 3) := by decide
theorem test_decode_scroll : decodeTableWord 24 0x070002 = some (.scroll true false) := by decide
theorem test_decode_setBacklight : decodeTableWord 24 0x080001 = some (.setBacklight true) := by decide
theorem test_decode_writeChar : decodeTableWord 24 0x090041 = some (.writeChar 0x41) := by decide
theorem test_decode_writeString : decodeTableWord 24 0x0A0100 = some (.writeString 0x0100) := by decide
theorem test_decode_kClear : decode Config.default (.command 0b00000001) = .ok .kClear := by decide
theorem test_decode_kHome : decode Config.default (.command 0b00000011) = .ok (.kHome true) := by decide
theorem test_decode_kEntryModeSet : decode Config.default (.command 0b00000110) = .ok (.kEntryModeSet true false) := by decide
theorem test_decode_kDisplayControl : decode Config.default (.command 0b00001101) = .ok (.kDisplayControl true false true) := by decide
theorem test_decode_kShift : decode Config.default (.command 0b00010110) = .ok (.kShift false true 2) := by decide
theorem test_decode_kFunctionSet : decode Config.default (.command 0b00101001) = .ok (.kFunctionSet false true false 1) := by decide
theorem test_decode_kSetCgramAddr : decode Config.default (.command 0b01100001) = .ok (.kSetCgramAddr 0x21) := by decide
theorem test_decode_kSetDdramAddr : decode Config.default (.command 0b11000011) = .ok (.kSetDdramAddr 0x43) := by decide
theorem test_decode_wireByte : decode Config.default (.wire 0b00111100) = .ok (.wireByte 3 true true false) := by decide
theorem test_decode_noOpcodeBit : decode Config.default (.command 0x00) = .error .noOpcodeBit := by decide
/-- The four lines the other way round (R71: their positions are parameters). -/
def wiredOtherwise : Config := { Config.default with rsBit := 0x08, rwBit := 0x04, enBit := 0x02, backlightBit := 0x01 }

theorem test_decode_wireByte_wiredOtherwise : decode wiredOtherwise (.wire 0xF3) = .ok (.wireByte 0xF true true false) := by decide
theorem test_decode_rwBit : decode Config.default (.wire 0x02) = .error .rwBitSet := by decide
theorem test_decode_reserved : decode Config.default (.host 0xFF0000) = .error .reservedOp := by decide
theorem test_decode_clear_mustBeZero : decode Config.default (.host 0x020001) = .error .mustBeZero := by decide
theorem test_decode_writeChar_mustBeZero : decode Config.default (.host 0x090141) = .error .mustBeZero := by decide

/-! ### A small machine -/

/-- The default parameters with numbers for the two open ones. -/
def testCfg : Config := { Config.default with i2cSpeed := 100, i2cTimeoutMs := 10 }

/-- The end state of program P1 on the ideal clock (95 section 3), with answers laid down. -/
def testCtx : Context where
  life := .ready
  address := 0x27
  backlightOn := true
  nextReadyTick := 29279
  transportOpen := true
  lockExists := true
  lockOwner := none

def testEnv : Env where
  clock := 25179
  elapsed := List.replicate 32 0
  allocs := [true]
  opens := [true]
  creates := [true]
  writes := List.replicate 22 .ok
  agenda := []
  draws := 0
  grain := .command

def testReady : State where
  cfg := testCfg
  ctx := testCtx
  cur := 0
  requesters := [Requester.fresh, Requester.fresh]
  mem := [(0x0000, 0x42), (0x0100, 0x41), (0x0101, 0x42), (0xFFFF, 0x41)]
  expander := 0x68
  env := testEnv
  history := []

/-- No context, every answer `ok`, clock 0. -/
def testAbsent : State := { testReady with ctx := Context.absent, env := { testEnv with clock := 0 } }

/-- The same machine with other answers of the transport. -/
def answering (ws : List WriteAnswer) (s : State) : State := s.withEnv { s.env with writes := ws }

/-- The same machine with a move laid down, so that a command does not run alone. -/
def withMove (m : Move) (s : State) : State := s.withEnv { s.env with agenda := [m] }

/-- The next state, where there is one. -/
def nextOf (o : Host.Outcome State Fault Refusal) : State :=
  match o with
  | .next t => t
  | .fault _ => State.reset
  | .refused _ => State.reset

/-- The port events of an instruction run at a state. -/
def eventsOf (i : Instr) (s : State) : List Event := (nextOf (exec i s)).events

/-- The wire bytes of an instruction run at a state. -/
def wires (i : Instr) (s : State) : List Byte := attemptsOf (eventsOf i s)

/-! ### One step of each instruction (expected values from spec/95_test_vectors.md) -/

/-- V-INIT-2. -/
theorem test_init_open_fails :
    eventsOf (.init 0x27 true) { testAbsent with env := { testEnv with opens := [false] } } =
      [.cmd 0 0x002701 (.devicePath ""), .alloc true, .tOpen 0x27 100 10 (.devicePath "") false, .status 0 2] := by decide
/-- V-INIT-4. -/
theorem test_init_first_write_fails :
    eventsOf (.init 0x27 true) (answering [.failUnchanged] testAbsent) =
      [.cmd 0 0x002701 (.devicePath ""), .alloc true, .tOpen 0x27 100 10 (.devicePath "") true, .lCreate true,
       .delay 15000, .tWrite 0x3C false, .tClose, .lDestroy, .status 0 4] := by decide
theorem test_deinit :
    eventsOf .deinit testReady = [.cmd 0 0x010000 (.devicePath ""), .tClose, .lDestroy, .status 0 0] := by decide
/-- Table 2.3, with the wait of P2. -/
theorem test_clear :
    eventsOf .clear testReady =
      [.cmd 0 0x020000 (.devicePath ""), .acquire 0, .now 25179, .delay 4100, .tWrite 0x0C true, .delay 1, .tWrite 0x08 true,
       .delay 38, .tWrite 0x1C true, .delay 1, .tWrite 0x18 true, .now 29319, .release 0, .status 0 0] := by decide
/-- Table 2.4, third raw write. -/
theorem test_clear_third_write_fails :
    (nextOf (exec .clear (answering [.ok, .ok, .failChanged] testReady))).ctx = { testCtx with nextReadyTick := 0 } := by decide
theorem test_home : wires .home testReady = [0x0C, 0x08, 0x2C, 0x28] := by decide
theorem test_home_tick : (nextOf (exec .home testReady)).ctx.nextReadyTick = 29319 + 1640 := by decide
theorem test_setDisplay : wires (.setDisplay true false true) testReady = [0x0C, 0x08, 0xDC, 0xD8] := by decide
theorem test_setEntryMode : wires (.setEntryMode false true) testReady = [0x0C, 0x08, 0x5C, 0x58] := by decide
/-- P2. -/
theorem test_setCursor : wires (.setCursor 1 3) testReady = [0xCC, 0xC8, 0x3C, 0x38] := by decide
/-- Table 2.8. -/
theorem test_setCursor_column_out_of_range :
    eventsOf (.setCursor 1 16) testReady = [.cmd 0 0x060110 (.devicePath ""), .status 0 5] := by decide
theorem test_scroll : wires (.scroll false true) testReady = [0x1C, 0x18, 0x4C, 0x48] := by decide
theorem test_setBacklight : eventsOf (.setBacklight false) testReady =
    [.cmd 0 0x080000 (.devicePath ""), .acquire 0, .release 0, .status 0 0] := by decide
theorem test_writeChar : wires (.writeChar 0x5A) testReady = [0x5D, 0x59, 0xAD, 0xA9] := by decide
/-- P2. -/
theorem test_writeString : wires (.writeString 0x0100) testReady = [0x4D, 0x49, 0x1D, 0x19, 0x4D, 0x49, 0x2D, 0x29] := by decide
/-- Table 2.10, the address wraps. -/
theorem test_writeString_wraps : readsOf (eventsOf (.writeString 0xFFFF) testReady) = [0xFFFF, 0x0000, 0x0001] := by decide
theorem test_kClear : wires .kClear testReady = [0x0C, 0x08, 0x1C, 0x18] := by decide
/-- The "x" bit is sent as 0 (R74). -/
theorem test_kHome : wires (.kHome true) testReady = [0x0C, 0x08, 0x2C, 0x28] := by decide
theorem test_kEntryModeSet : wires (.kEntryModeSet true false) testReady = [0x0C, 0x08, 0x6C, 0x68] := by decide
theorem test_kDisplayControl : wires (.kDisplayControl true true false) testReady = [0x0C, 0x08, 0xEC, 0xE8] := by decide
theorem test_kShift : wires (.kShift true false 3) testReady = [0x1C, 0x18, 0x8C, 0x88] := by decide
theorem test_kFunctionSet : wires (.kFunctionSet false true false 3) testReady = [0x2C, 0x28, 0x8C, 0x88] := by decide
theorem test_kSetDdramAddr : wires (.kSetDdramAddr 0x45) testReady = [0xCC, 0xC8, 0x5C, 0x58] := by decide
theorem test_wireByte : wires (.wireByte 0xF true true true) testReady = [0xFD] := by decide
/-- R160: after reset only INIT is admitted. -/
theorem test_reset_clear : step (State.reset.withFetchWord 24 0x020000) = .refused .notReady := by rfl
/-- R8: the arrival of a command is a step of its own; at reset INIT is admitted. -/
theorem test_reset_init :
    (nextOf (step (State.reset.withFetchWord 24 0x002701))).events = [.cmd 0 0x002701 (.devicePath "")] ∧
      (nextOf (step (State.reset.withFetchWord 24 0x002701))).ctx.life = .constructing := ⟨by rfl, by rfl⟩
/-- R81: the address byte of the two presets. -/
theorem test_address_byte : i2cAddressByte 0x27 = 0x4E ∧ i2cAddressByte 0x3F = 0x7E := by decide
/-- RECORD at the top of the range wraps (table 2.6). -/
theorem test_record_wraps :
    (testReady.lineStep 0 { cmd := .clear, todo := [], ctl := 0, t := 0, t2 := -1 } (.recordTick 1640)).ctx.nextReadyTick = 1639 := by decide

/-! ### Witnesses: for every statement with hypotheses, a state and operands that meet them together; where a statement has several
clauses over one input, one for each clause at a boundary of its range. -/

theorem witness_DecodeOfEncodeIsTheInstruction : wiredOtherwise.legalLines = true ∧ wiredOtherwise.tablePatterns = true := by decide
theorem witness_EncodeOfDecodeIsTheWord :
    wiredOtherwise.legalLines = true ∧ wiredOtherwise.tablePatterns = true ∧
      decode wiredOtherwise (.host 0x06FFFF) = .ok (.setCursor 255 255) := by decide
theorem witness_HostWordsAreHostCommands : decodeHost 0x0A0100 = .ok (.writeString 0x0100) := by decide
theorem witness_ReservedHostWordsAreRefused_reservedOp : 0x0B ≤ (hostOp 0x0B0000).toNat := by decide
theorem witness_ReservedHostWordsAreRefused_mustBeZero :
    (hostOp 0x090100).toNat ≤ 0x0A ∧ (0x090100 : BitVec 24) &&& hostMask 9 ≠ (hostOp 0x090100).zeroExtend 24 <<< 16 := by decide
theorem witness_ReservedHostWordsAreRefused_valid :
    (hostOp 0x0AFFFF).toNat ≤ 0x0A ∧ (0x0AFFFF : BitVec 24) &&& hostMask 10 = (hostOp 0x0AFFFF).zeroExtend 24 <<< 16 := by decide

/-- The small machine with a word on the command port of requester 1. -/
def testPresented (w : BitVec 24) : State := testReady.withReq 1 { Requester.fresh with port := [⟨w, .busHandle 1⟩] }

/-- CLEAR before the first raw write of its byte. -/
def testClearing : Progress where
  cmd := .clear
  todo := (byteLines testCfg false 0x01 1640).drop 4 ++ [.ret .success]
  ctl := 0x08
  t := 25179
  t2 := 0

/-- WRITECHAR at its Acquire. -/
def testWriting : Progress where
  cmd := .writeChar 0x41
  todo := byteLines testCfg true 0x41 0 ++ [.ret .success]
  ctl := 0
  t := 0
  t2 := 0

/-- A byte write in progress: requester 0 owns the lock and stands before the first raw write of CLEAR's byte, requester 1 has a
WRITECHAR that stands at its Acquire. -/
def testHeld : State where
  cfg := testCfg
  ctx := { testCtx with lockOwner := some 0, nextReadyTick := 0 }
  cur := 0
  requesters := [{ Requester.fresh with seq := some testClearing }, { Requester.fresh with seq := some testWriting }]
  mem := testReady.mem
  expander := 0x68
  env := testEnv
  history := []

theorem witness_ReservedHostWordsAreRefused_step :
    (testPresented 0x0B0000).env.agenda = [] ∧ (testPresented 0x0B0000).movers = [1] ∧
      ((testPresented 0x0B0000).req 1).seq = none ∧ ((testPresented 0x0B0000).req 1).port = [⟨0x0B0000, .busHandle 1⟩] ∧
      decodeHost 0x0B0000 = .error .reservedOp := by decide
theorem witness_ReservedHostWordsAreRefused_laid_down :
    ((withMove (.run 1) (testPresented 0x020001)).req 1).seq = none ∧
      ((withMove (.run 1) (testPresented 0x020001)).req 1).port = [⟨0x020001, .busHandle 1⟩] ∧
      decodeHost 0x020001 = .error .mustBeZero ∧ (withMove (.run 1) (testPresented 0x020001)).env.agenda = .run 1 :: [] := by decide
theorem witness_StepRunsTheDecodedInstruction :
    ((testPresented 0x020000).req 1).seq = none ∧ ((testPresented 0x020000).req 1).port = [⟨0x020000, .busHandle 1⟩] ∧
      decodeHost 0x020000 = .ok .clear ∧ (testPresented 0x020000).env.agenda = [] ∧ (testPresented 0x020000).movers = [1] := by
  decide
theorem witness_StepRunsTheDecodedInstruction_laid_down :
    ((withMove (.run 1) (testPresented 0x020000)).req 1).seq = none ∧
      ((withMove (.run 1) (testPresented 0x020000)).req 1).port = [⟨0x020000, .busHandle 1⟩] ∧
      decodeHost 0x020000 = .ok .clear ∧ (withMove (.run 1) (testPresented 0x020000)).env.agenda = .run 1 :: [] := by decide
theorem witness_StepResumesTheCommandInProgress :
    (testHeld.req 0).seq = some testClearing ∧ testHeld.canMove 0 = true ∧ testHeld.env.agenda = [] ∧ testHeld.movers = [0] := by decide
theorem witness_StepResumesTheCommandInProgress_laid_down :
    ((withMove (.run 0) testHeld).req 0).seq = some testClearing ∧ (withMove (.run 0) testHeld).canMove 0 = true ∧
      (withMove (.run 0) testHeld).env.agenda = .run 0 :: [] := by decide
theorem witness_OneLineAtATimeBetweenAgents :
    (testHeld.req testHeld.cur).seq = some testClearing ∧ testClearing.cmd.wellFormed = true ∧ testHeld.canMove testHeld.cur = true ∧
      testHeld.alone = false := by decide
theorem witness_IdleBlockDoesNothing : testReady.env.agenda = [] ∧ testReady.requesters.all Requester.quiet = true := by decide

theorem witness_InitConstructsTheContext :
    testAbsent.absentAlone = true ∧ testAbsent.env.allocs.head? = some true ∧ testAbsent.env.opens.head? = some true ∧
      testAbsent.env.creates.head? = some true ∧ testAbsent.env.writes = List.replicate 22 .ok ++ [] := by decide
theorem witness_InitUnwindsEarlyFailures_alloc :
    (testAbsent.withEnv { testEnv with allocs := [false] }).absentAlone = true ∧
      (testAbsent.withEnv { testEnv with allocs := [false] }).env.allocs.head? = some false := by decide
theorem witness_InitUnwindsEarlyFailures_open :
    (testAbsent.withEnv { testEnv with opens := [false] }).absentAlone = true ∧
      (testAbsent.withEnv { testEnv with opens := [false] }).env.allocs.head? = some true ∧
      (testAbsent.withEnv { testEnv with opens := [false] }).env.opens.head? = some false := by decide
theorem witness_InitUnwindsEarlyFailures_lock :
    (testAbsent.withEnv { testEnv with creates := [false] }).absentAlone = true ∧
      (testAbsent.withEnv { testEnv with creates := [false] }).env.allocs.head? = some true ∧
      (testAbsent.withEnv { testEnv with creates := [false] }).env.opens.head? = some true ∧
      (testAbsent.withEnv { testEnv with creates := [false] }).env.creates.head? = some false := by decide
theorem witness_InitUnwindsAFailedResetSequence_first :
    (answering [.failChanged] testAbsent).absentAlone = true ∧ (answering [.failChanged] testAbsent).env.allocs.head? = some true ∧
      (answering [.failChanged] testAbsent).env.opens.head? = some true ∧
      (answering [.failChanged] testAbsent).env.creates.head? = some true ∧
      (answering [.failChanged] testAbsent).env.writes = List.replicate 0 .ok ++ .failChanged :: [] ∧
      WriteAnswer.failChanged.isOk = false := by decide
/-- 21 answers `ok`, and the 22nd raw write fails (V-INIT-6). -/
def lastFails : List WriteAnswer := List.replicate 21 WriteAnswer.ok ++ [WriteAnswer.failUnchanged]

theorem witness_InitUnwindsAFailedResetSequence_last :
    (answering lastFails testAbsent).absentAlone = true ∧ (answering lastFails testAbsent).env.allocs.head? = some true ∧
      (answering lastFails testAbsent).env.opens.head? = some true ∧
      (answering lastFails testAbsent).env.creates.head? = some true ∧ 21 < 22 ∧
      (answering lastFails testAbsent).env.writes = lastFails ∧ WriteAnswer.failUnchanged.isOk = false := by decide
theorem witness_CommandsAreRefusedUnlessReady :
    testAbsent.cur < testAbsent.requesters.length ∧ testAbsent.cfg.legal = true ∧ (testAbsent.req testAbsent.cur).seq = none ∧
      Instr.clear.wellFormed = true ∧ (∀ address backlightOn, Instr.clear ≠ .init address backlightOn) ∧
      testAbsent.ctx.life ≠ .ready := by
  refine ⟨by decide, by decide, by decide, by decide, ?_, by decide⟩
  intro _ _ h
  cases h
theorem witness_InitIsRefusedUnlessAbsent :
    testReady.cur < testReady.requesters.length ∧ testReady.cfg.legal = true ∧ (testReady.req testReady.cur).seq = none ∧
      testReady.ctx.life ≠ .absent := by decide
theorem witness_DeinitFreesTheContext : testReady.readyAlone = true := by decide
theorem witness_DeinitFreesTheContext_other :
    let s := (testHeld.withReq 0 Requester.fresh).withOwner none
    s.cur < s.requesters.length ∧ s.cfg.legal = true ∧ (s.req s.cur).seq = none ∧ s.ctx.life = .ready ∧
      (1 ≠ s.cur ∧ 1 < s.requesters.length ∧ (s.req 1).seq.isSome = true) := by decide
theorem witness_DeinitFreesTheContext_held :
    let s := testReady.withOwner (some 1)
    s.cur < s.requesters.length ∧ s.cfg.legal = true ∧ (s.req s.cur).seq = none ∧ s.ctx.life = .ready ∧
      s.ctx.lockOwner.isSome = true := by decide

/-- Both clauses of `SendsByte`: all four raw writes answer `ok`; the first, and the last, fails. -/
theorem witness_SendsByte_ok : testReady.env.writes = .ok :: .ok :: .ok :: .ok :: List.replicate 18 .ok := by decide
theorem witness_SendsByte_first_fails :
    (answering [.failChanged] testReady).readyAlone = true ∧
      (answering [.failChanged] testReady).env.writes = List.replicate 0 .ok ++ .failChanged :: [] ∧
      WriteAnswer.failChanged.isOk = false := by decide
theorem witness_SendsByte_last_fails :
    (answering [.ok, .ok, .ok, .failUnchanged] testReady).readyAlone = true ∧ 3 < 4 ∧
      (answering [.ok, .ok, .ok, .failUnchanged] testReady).env.writes = List.replicate 3 .ok ++ .failUnchanged :: [] ∧
      WriteAnswer.failUnchanged.isOk = false := by decide
theorem witness_ClearAndHomeSendTheirByte : testReady.readyAlone = true := by decide
theorem witness_ClearTwiceSendsTheSameBytes :
    testReady.readyAlone = true ∧ testReady.env.writes = List.replicate 8 .ok ++ List.replicate 14 .ok := by decide
theorem witness_FlagCommandsSendTheirByte : testReady.readyAlone = true := by decide
theorem witness_WriteCharSendsTheCharacter : testReady.readyAlone = true := by decide
theorem witness_CommandBytesAreSent : testReady.readyAlone = true := by decide
theorem witness_SetCursorSendsTheAddressOrRejects_valid :
    testReady.readyAlone = true ∧ (1 : Byte).toNat < testReady.cfg.rowCount ∧ (15 : Byte).toNat < testReady.cfg.columnCount := by
  decide
theorem witness_SetCursorSendsTheAddressOrRejects_row :
    testReady.readyAlone = true ∧ testReady.cfg.rowCount ≤ (2 : Byte).toNat := by decide
theorem witness_SetCursorSendsTheAddressOrRejects_column :
    testReady.readyAlone = true ∧ testReady.cfg.columnCount ≤ (16 : Byte).toNat := by decide
theorem witness_CursorAddressFitsSevenBits : testCfg.legal = true ∧ cursorInRange testCfg 1 15 = true := by decide
theorem witness_NeverEmittedBytesAreRefused : (true, true, false) ≠ (false, true, false) := by decide

/-- A bare nibble at the front of a command, and a byte write at the front of a command. -/
def testNibble : Progress := { testClearing with todo := [.nibbleWrite 3 true false, .delay 1, .nibbleWrite 3 false false] }

theorem witness_NibbleIsTwoRawWrites :
    let s := testReady.withSeq 0 (some testNibble)
    (s.req 0).seq = some testNibble ∧ s.ctx.transportOpen = true ∧
      testNibble.todo = .nibbleWrite 3 true false :: .delay s.cfg.enablePulse :: .nibbleWrite 3 false false :: [] ∧
      s.env.writes = .ok :: .ok :: List.replicate 20 .ok := by decide
theorem witness_NibbleIsTwoRawWrites_first_fails :
    (answering [.failChanged] testReady).env.writes = .failChanged :: [] ∧ WriteAnswer.failChanged.isOk = false := by decide
theorem witness_NibbleIsTwoRawWrites_second_fails :
    (answering [.ok, .failUnchanged] testReady).env.writes = .ok :: .failUnchanged :: [] ∧
      WriteAnswer.failUnchanged.isOk = false := by decide
theorem witness_ByteWriteRunsOrAborts :
    let s := testReady.withSeq 1 (some testWriting)
    (s.req 1).seq = some testWriting ∧ testWriting.todo = byteLines s.cfg true 0x41 0 ++ [.ret .success] ∧
      s.ctx.transportOpen = true ∧ s.ctx.lockExists = true ∧ s.ctx.lockOwner = none ∧
      s.env.writes = .ok :: .ok :: .ok :: .ok :: List.replicate 18 .ok := by decide
theorem witness_ByteWriteRunsOrAborts_fails :
    let s := (answering [.ok, .ok, .failChanged] testReady).withSeq 1 (some testWriting)
    (s.req 1).seq = some testWriting ∧ s.ctx.transportOpen = true ∧ s.ctx.lockExists = true ∧ s.ctx.lockOwner = none ∧ 2 < 4 ∧
      s.env.writes = List.replicate 2 .ok ++ .failChanged :: [] ∧ WriteAnswer.failChanged.isOk = false := by decide
theorem witness_NextCommandAfterAFailureDoesNotWait :
    (answering [.ok, .failChanged] testReady).readyAlone = true ∧ byteOf testCfg .home = some (false, 0x02, 1640) ∧ 1 < 4 ∧
      (answering [.ok, .failChanged] testReady).env.writes = List.replicate 1 .ok ++ .failChanged :: [] ∧
      WriteAnswer.failChanged.isOk = false := by decide
/-- The index of the failing raw write at the ends of its range. -/
theorem witness_NextCommandAfterAFailureDoesNotWait_first :
    (answering [.failUnchanged] testReady).readyAlone = true ∧ byteOf testCfg .home = some (false, 0x02, 1640) ∧ 0 < 4 ∧
      (answering [.failUnchanged] testReady).env.writes = List.replicate 0 .ok ++ .failUnchanged :: [] ∧
      WriteAnswer.failUnchanged.isOk = false := by decide
theorem witness_NextCommandAfterAFailureDoesNotWait_last :
    (answering [.ok, .ok, .ok, .failChanged] testReady).readyAlone = true ∧ byteOf testCfg .home = some (false, 0x02, 1640) ∧
      3 < 4 ∧ (answering [.ok, .ok, .ok, .failChanged] testReady).env.writes = List.replicate 3 .ok ++ .failChanged :: [] ∧
      WriteAnswer.failChanged.isOk = false := by decide
theorem witness_SetBacklightStoresTheFlag : testReady.readyAlone = true := by decide
theorem witness_BacklightTakesEffectOnTheNextByte :
    testReady.readyAlone = true ∧ byteOf testReady.cfg .clear = some (false, 0x01, 1640) ∧
      testReady.env.writes = .ok :: .ok :: .ok :: .ok :: List.replicate 18 .ok := by decide
theorem witness_WriteStringSendsTheString :
    testReady.readyAlone = true ∧ stringSent testReady 0xFFFF = [0x41, 0x42] ∧
      testReady.env.writes.take (4 * (stringSent testReady 0xFFFF).length) =
        List.replicate (4 * (stringSent testReady 0xFFFF).length) .ok := by decide
theorem witness_WriteStringSendsTheString_fails :
    let s := answering [.ok, .ok, .ok, .ok, .ok, .failUnchanged] testReady
    s.readyAlone = true ∧ 5 < 4 * (stringSent s 0x0100).length ∧ s.env.writes = List.replicate 5 .ok ++ .failUnchanged :: [] ∧
      WriteAnswer.failUnchanged.isOk = false := by decide
theorem witness_WriteStringSendsTheString_first_fails :
    let s := answering [.failChanged] testReady
    s.readyAlone = true ∧ 0 < 4 * (stringSent s 0x0100).length ∧ s.env.writes = List.replicate 0 .ok ++ .failChanged :: [] ∧
      WriteAnswer.failChanged.isOk = false := by decide
theorem witness_WriteStringSendsTheString_last_fails :
    let s := answering (List.replicate 7 .ok ++ [.failUnchanged]) testReady
    s.readyAlone = true ∧ 7 + 1 = 4 * (stringSent s 0x0100).length ∧ s.env.writes = List.replicate 7 .ok ++ .failUnchanged :: [] ∧
      WriteAnswer.failUnchanged.isOk = false := by decide

/-- The small machine with a cap of one character, and with a cap of none. -/
def testCapped (n : Nat) : State := { testReady with cfg := { testCfg with stringCap := n } }

/-- The string of two characters at 0x0100 reaches the cap after the first. -/
theorem witness_WriteStringSendsTheString_cap :
    (testCapped 1).readyAlone = true ∧ stringSent (testCapped 1) 0x0100 = [0x41] ∧
      (testCapped 1).env.writes.take (4 * (stringSent (testCapped 1) 0x0100).length) =
        List.replicate (4 * (stringSent (testCapped 1) 0x0100).length) .ok := by decide
/-- At the cap the byte after it is not read (R171). -/
theorem test_writeString_cap : eventsOf (.writeString 0x0100) (testCapped 0) = [.cmd 0 0x0A0100 (.devicePath ""), .status 0 0] ∧
    readsOf (eventsOf (.writeString 0x0100) (testCapped 1)) = [0x0100] := by decide
theorem witness_WriteStringSendsTheString_empty :
    testReady.readyAlone = true ∧ 1 ≤ testReady.cfg.stringCap ∧
      Memory.read testReady.mem (0x0102 : BitVec 16).toNat = testReady.cfg.stringTerminator := by decide
/-- WRITESTRING about to read a character, and the terminator. -/
def testReading (saddr : BitVec 16) : Progress := { testClearing with cmd := .writeString saddr, todo := [.readString saddr 0] }

theorem witness_StringByteIsReadAtItsTurn :
    ((testReady.withSeq 0 (some (testReading 0x0100))).req 0).seq = some (testReading 0x0100) ∧
      (testReading 0x0100).todo = [.readString 0x0100 0] ∧
      Memory.read testReady.mem ((0x0100 : BitVec 16) + BitVec.ofNat 16 0).toNat = 0x41 := by decide
theorem witness_StringByteIsReadAtItsTurn_terminator :
    ((testReady.withSeq 0 (some (testReading 0x0102))).req 0).seq = some (testReading 0x0102) ∧
      Memory.read testReady.mem ((0x0102 : BitVec 16) + BitVec.ofNat 16 0).toNat = testReady.cfg.stringTerminator := by decide
theorem witness_WireByteIsOneRawWrite :
    testReady.readyAlone = true ∧ testReady.env.writes = .ok :: List.replicate 21 .ok := by decide
theorem witness_ByteWriteHasTheShapeOfTwoNibbles :
    testReady.readyAlone = true ∧ byteOf testReady.cfg (.writeChar 0x5A) = some (true, 0x5A, 0) ∧
      testReady.env.writes = .ok :: .ok :: .ok :: .ok :: List.replicate 18 .ok := by decide
/-- R127: latches that agree on the register select; a nibble without a second half is no byte. -/
theorem test_assembled : assembled [(4, true), (1, true), (2, false)] = [(0x41, true)] := by decide
theorem witness_ObserverSeesTheByte : testCfg.legal = true := by decide
theorem witness_ObserverSeesTheResetSequence : testCfg.legal = true := by decide

/-- CLEAR at WAIT, and at RECORD. -/
def testWait : Progress := { testClearing with todo := .readClock :: .waitReady :: testClearing.todo }
def testRecord : Progress := { testClearing with todo := [.readClockAgain, .recordTick 1640, .release] }

/-- Requester 0 at WAIT, with the tick `tick` and the clock `now` (table 2.5). -/
def testWaiting (tick : Tick) (now : Nat) : State :=
  (((testReady.withEnv { testEnv with clock := now }).withTick tick).withOwner (some 0)).withSeq 0 (some testWait)

theorem witness_WaitDelaysAtMostOnce_not_later :
    ((testWaiting 1000 1000).req 0).seq = some testWait ∧ testWait.todo = .readClock :: .waitReady :: testClearing.todo ∧
      (testWaiting 1000 1000).ctx.nextReadyTick.toNat ≤ (testWaiting 1000 1000).nowValue.toNat := by decide
theorem witness_WaitDelaysAtMostOnce_later :
    ((testWaiting 1000 999).req 0).seq = some testWait ∧ testWait.todo = .readClock :: .waitReady :: testClearing.todo ∧
      (testWaiting 1000 999).nowValue.toNat < (testWaiting 1000 999).ctx.nextReadyTick.toNat := by decide
/-- Table 2.5: the wait at its boundary, at the cap and above it. -/
theorem test_wait_none : (State.runLines 2 0 (testWaiting 1000 1000)).events = [.now 1000] := by decide
theorem test_wait_one : (State.runLines 2 0 (testWaiting 1000 999)).events = [.now 999, .delay 1] := by decide
theorem test_wait_capped : (State.runLines 2 0 (testWaiting 10401 400)).events = [.now 400, .delay 10000] := by decide
theorem witness_RecordStoresTheTick :
    ((testReady.withSeq 0 (some testRecord)).req 0).seq = some testRecord ∧
      testRecord.todo = .readClockAgain :: .recordTick 1640 :: [.release] := by decide

/-- CLEAR and then WRITECHAR on the small machine. -/
theorem witness_BytesAreSpacedByTheRecordedDelay :
    let t := nextOf (exec .clear testReady)
    let u := nextOf (exec (.writeChar 0x41) t)
    testReady.readyAlone = true ∧ byteOf testReady.cfg .clear = some (false, 0x01, 1640) ∧
      testReady.env.writes = .ok :: .ok :: .ok :: .ok :: List.replicate 18 .ok ∧ exec .clear testReady = .next t ∧
      t.readyAlone = true ∧ t.env.clock ≤ t.env.clock ∧ byteOf t.cfg (.writeChar 0x41) = some (true, 0x41, 0) ∧
      exec (.writeChar 0x41) t = .next u ∧ u.env.clock + testReady.cfg.maxWait.toNat < 2 ^ 64 := by
  refine ⟨by decide, by decide, by decide, by rfl, by decide, by decide, by decide, by rfl, by decide⟩

/-- The command positions of the machine in the middle of a byte write. -/
theorem testHeld_seq {r : Nat} {p : Progress} (h : (testHeld.req r).seq = some p) :
    (r = 0 ∧ p = testClearing) ∨ (r = 1 ∧ p = testWriting) := by
  match r, h with
  | 0, h => exact .inl ⟨rfl, (Option.some.inj h).symm⟩
  | 1, h => exact .inr ⟨rfl, (Option.some.inj h).symm⟩
  | n + 2, h => cases h

theorem testHeld_discipline : LockDiscipline testHeld := by
  have cmds : ∀ {r i}, testHeld.inProgress r = some i → i = .clear ∨ i = .writeChar 0x41 := by
    intro r i h
    obtain ⟨p, hp, rfl⟩ := Option.map_eq_some_iff.mp h
    rcases testHeld_seq hp with ⟨-, rfl⟩ | ⟨-, rfl⟩
    · exact .inl rfl
    · exact .inr rfl
  refine ⟨?_, ?_, ?_, ?_, ?_, ?_⟩
  · intro r p h
    rcases testHeld_seq h with ⟨rfl, rfl⟩ | ⟨rfl, rfl⟩ <;> decide
  · intro r h
    cases h
    rfl
  · intro r i r' i' h hl
    rcases cmds h with rfl | rfl <;> cases hl
  · intro h
    cases h
  · intro r i _ hl
    exact absurd rfl hl
  · intro r a b h
    rcases cmds h with h | h <;> cases h

theorem testHeld_withinCap : TickWithinCap testHeld := by
  refine ⟨by decide, by decide, ?_⟩
  intro r p h
  rcases testHeld_seq h with ⟨rfl, rfl⟩ | ⟨rfl, rfl⟩ <;> decide

theorem testHeld_readWrite : ReadWriteNeverSet testHeld := by
  refine ⟨by decide, by decide, ?_⟩
  intro r p h
  rcases testHeld_seq h with ⟨rfl, rfl⟩ | ⟨rfl, rfl⟩
  · exact ⟨⟨true, false, .inl (by decide)⟩, by decide⟩
  · exact ⟨⟨true, false, .inr rfl⟩, by decide⟩

theorem witness_TickDoesNotDecreaseWhileHealthy :
    let t := nextOf (exec .clear testReady)
    testReady.readyAlone = true ∧ TickWithinCap testReady ∧ byteOf testReady.cfg .clear = some (false, 0x01, 1640) ∧
      testReady.env.writes = .ok :: .ok :: .ok :: .ok :: List.replicate 18 .ok ∧ exec .clear testReady = .next t ∧
      t.env.clock + testReady.cfg.maxWait.toNat < 2 ^ 64 := by
  refine ⟨by decide, ⟨by decide, by decide, ?_⟩, by decide, by decide, by rfl, by decide⟩
  intro r p h
  match r, h with
  | 0, h => cases h
  | 1, h => cases h
  | n + 2, h => cases h
theorem witness_TickStaysWithinCap : TickWithinCap testHeld ∧ step testHeld = .next (nextOf (step testHeld)) :=
  ⟨testHeld_withinCap, by rfl⟩
theorem witness_AcquireWaitsForTheOwner :
    (testHeld.req 1).seq = some testWriting ∧ testWriting.todo.head? = some .acquire ∧ testWriting.cmd.wellFormed = true ∧ testHeld.ctx.lockExists = true ∧
      testHeld.ctx.lockOwner = some 0 := by decide
theorem witness_AcquireWaitsForTheOwner_laid_down :
    (withMove (.run 1) testHeld).ctx.lockOwner = some 0 ∧ (withMove (.run 1) testHeld).env.agenda = .run 1 :: [] := by decide
theorem witness_EveryGrantOrderIsAdmitted :
    let s := withMove (.run 1) ((testReady.withSeq 0 (some testWriting)).withSeq 1 (some testWriting))
    (s.req 1).seq = some testWriting ∧ testWriting.todo.head? = some .acquire ∧ testWriting.cmd.wellFormed = true ∧
      s.ctx.lockExists = true ∧ s.ctx.lockOwner = none ∧ s.env.agenda = .run 1 :: [] := by decide
theorem witness_LockDisciplineIsKept : LockDiscipline testHeld ∧ step testHeld = .next (nextOf (step testHeld)) :=
  ⟨testHeld_discipline, by rfl⟩
theorem witness_RawWritesBelongToTheOwner :
    LockDiscipline testHeld ∧ testHeld.ctx.lockOwner = some 0 ∧ step testHeld = .next (nextOf (step testHeld)) ∧
      attemptsOf (nextOf (step testHeld)).events ≠ attemptsOf testHeld.events :=
  ⟨testHeld_discipline, by decide, by rfl, by decide⟩
theorem witness_BacklightIsConstantWithinAByte :
    LockDiscipline testHeld ∧ testHeld.ctx.lockOwner = some 0 ∧ testHeld.inProgress 0 = some .clear ∧
      Instr.clear.lifecycle = false ∧ Instr.clear.setsBacklight = false ∧ step testHeld = .next (nextOf (step testHeld)) :=
  ⟨testHeld_discipline, by decide, by decide, by decide, by decide, by rfl⟩
theorem witness_OnlyLifecycleCommandsTouchTheHandles :
    LockDiscipline testHeld ∧ Instr.clear.lifecycle = false ∧ exec .clear testHeld = .next (nextOf (exec .clear testHeld)) :=
  ⟨testHeld_discipline, by decide, by rfl⟩
theorem witness_EveryCommandReturns_ready :
    testReady.readyAlone = true ∧ Instr.clear.isHost = true ∧ ∀ address backlightOn, Instr.clear ≠ .init address backlightOn := by
  refine ⟨by decide, by decide, ?_⟩
  intro _ _ h
  cases h
theorem witness_EveryCommandReturns_absent :
    testAbsent.absentAlone = true ∧ testAbsent.ctx.lockOwner = none ∧ (Instr.init 0x27 true).isHost = true := by decide
theorem witness_ReadWriteLineStaysClear : ReadWriteNeverSet testHeld ∧ step testHeld = .next (nextOf (step testHeld)) :=
  ⟨testHeld_readWrite, by rfl⟩
theorem witness_BlockWritesNoMemory :
    step (withMove (.store 0x0102 0x43) testReady) = .next (nextOf (step (withMove (.store 0x0102 0x43) testReady))) ∧
      Memory.wf testReady.mem = true := ⟨by rfl, by decide⟩
theorem witness_ClockAndHistoryOnlyGrow : step testHeld = .next (nextOf (step testHeld)) := by rfl

theorem witness_StepMakesAtMostOnePortEvent : step testHeld = .next (nextOf (step testHeld)) := by rfl
theorem witness_WholeCommandIsItsSteps :
    testReady.quietStart = true ∧ exec .clear testReady = .next (nextOf (exec .clear testReady)) := ⟨by decide, by rfl⟩
theorem witness_StepRunsAnInnerOperation :
    let s := withMove (.inner 1 (.command 0x06)) testReady
    s.env.agenda = .inner 1 (.command 0x06) :: [] ∧ (s.req 1).seq = none ∧
      decode s.cfg (InnerWord.word (.command 0x06)) = .ok (.kEntryModeSet true false) := by decide
theorem witness_WireByteSentIsTheWord :
    wiredOtherwise.legalLines = true ∧ decode wiredOtherwise (.wire 0xF3) = .ok (.wireByte 0xF true true false) := by decide
theorem witness_CommandByteSentIsTheWord :
    testCfg.bitOpcodes = true ∧ decode testCfg (.command 0x2B) = .ok (.kFunctionSet false true false 3) ∧
      byteOf testCfg (.kFunctionSet false true false 3) = some (false, 0x28, 0) := by decide
theorem witness_RequesterCountIsTheParameter :
    testHeld.requesters.length = testHeld.cfg.requesterCount ∧ step testHeld = .next (nextOf (step testHeld)) := ⟨by decide, by rfl⟩

end Sys2Proof.Tests
end

section
/-! PROOF. Scope (spec/00_scope.md): what one step is. A command in progress moves by one line, a line makes at most one port event,
no step touches configuration, number of requesters or host memory, and a whole command is its lines one step each. -/

namespace Sys2Proof.Machine

/-! ### Whose turn it is -/

/-- The only requester with a step has the turn when nothing is laid down. -/
theorem step_of_only_mover {s : State} {r : Nat} (ha : s.env.agenda = []) (hm : s.movers = [r]) :
    step s = (s.turnOf r).outcome := by
  simp [step, State.nextTurn, ha, hm, State.afterChoice, State.chosen]

/-- A laid-down turn of a requester that has a step is taken. -/
theorem step_of_laid_down_run {s : State} {r : Nat} {moves : List Move} (ha : s.env.agenda = .run r :: moves)
    (hs : s.hasStep r = true) : step s = ((s.withEnv { s.env with agenda := moves }).turnOf r).outcome := by
  have hs' : (s.withEnv { s.env with agenda := moves }).hasStep r = true := hs
  simp [step, State.nextTurn, ha, State.moveTurn, hs']

theorem State.turnOf_inProgress {s : State} {r : Nat} {p : Progress} (hp : (s.req r).seq = some p) :
    s.turnOf r = .run p.cmd (s.withCur r).byLine := by
  simp [State.turnOf, hp]

theorem State.turnOf_word {s : State} {r : Nat} {w : PortWord} {rest : List PortWord} {i : Instr} (hq : (s.req r).seq = none)
    (hw : (s.req r).port = w :: rest) (hd : decodeHost w.word = .ok i) : s.turnOf r = .run i (s.take r w rest).byLine := by
  simp [State.turnOf, hq, hw, hd]

theorem State.hasStep_inProgress {s : State} {r : Nat} {p : Progress} (hp : (s.req r).seq = some p) :
    s.hasStep r = s.canMove r := by
  simp [State.hasStep, hp]

theorem State.hasStep_word {s : State} {r : Nat} {w : PortWord} {rest : List PortWord} (hq : (s.req r).seq = none)
    (hw : (s.req r).port = w :: rest) : s.hasStep r = true := by
  simp [State.hasStep, hq, hw]

theorem State.hasStep_quiet {s : State} {r : Nat} (h : (s.req r).quiet = true) : s.hasStep r = false := by
  obtain ⟨hq, hw⟩ : (s.req r).seq = none ∧ (s.req r).port = [] := by simpa [Requester.quiet] using h
  simp [State.hasStep, hq, hw]

/-- Settles O6: whether it is alone or its turn is laid down, the requester's turn takes the word. -/
theorem stepRunsTheDecodedInstruction : Obligations.StepRunsTheDecodedInstruction := by
  intro s r w rest i hq hw hd
  refine ⟨fun ha hm => ?_, fun moves ha => ?_⟩
  · rw [step_of_only_mover ha hm, State.turnOf_word hq hw hd]
    rfl
  · rw [step_of_laid_down_run ha (State.hasStep_word hq hw),
      State.turnOf_word (s := s.withEnv { s.env with agenda := moves }) hq hw hd]
    rfl

/-- Settles O7: whether it is alone or its turn is laid down, the requester's turn resumes its command. -/
theorem stepResumesTheCommandInProgress : Obligations.StepResumesTheCommandInProgress := by
  intro s r p hp hm
  refine ⟨fun ha hone => ?_, fun moves ha => ?_⟩
  · rw [step_of_only_mover ha hone, State.turnOf_inProgress hp]
    rfl
  · rw [step_of_laid_down_run ha ((State.hasStep_inProgress hp).trans hm),
      State.turnOf_inProgress (s := s.withEnv { s.env with agenda := moves }) hp]
    rfl

/-! ### What `exec` runs of a command -/

/-- Every instruction that can be in progress goes on in the same way. -/
theorem exec_inProgress {s : State} {p : Progress} (hp : (s.req s.cur).seq = some p) (hw : p.cmd.wellFormed = true) :
    exec p.cmd s = s.resume := by
  have key : ∀ lc started, s.runCommand p.cmd lc started = s.resume := by simp [State.runCommand, hp]
  generalize p.cmd = i at hw key
  cases i with
  | setCursor row column =>
    simp only [exec, execSetCursor]
    split <;> exact key _ _
  | kFunctionSet l n f x => exact (if_pos hw).trans (key _ _)
  | kSetCgramAddr a => cases hw
  | _ => exact key _ _

/-- A command in progress that is not alone and whose next line has a step performs that line. -/
theorem exec_performs_next_line {s : State} {p : Progress} (hp : (s.req s.cur).seq = some p) (hw : p.cmd.wellFormed = true)
    (hm : s.canMove s.cur = true) (ha : s.alone = false) : exec p.cmd s = .next (s.perform s.cur) := by
  have hb : s.blocked s.cur = none := by
    unfold State.canMove at hm
    simpa using (Bool.and_eq_true_iff.mp hm).2
  rw [exec_inProgress hp hw]
  simp [State.resume, hb, ha, State.runLines, hm]

/-- Run by one line, an instruction performs the next line of the command in progress, or only arrives. -/
theorem exec_line_next {i : Instr} {s t : State} (ha : s.alone = false) (h : exec i s = .next t) :
    (s.canMove s.cur = true ∧ t = s.perform s.cur) ∨ Starts i s t := by
  rcases exec_next h with ⟨p, n, -, -, hm, rfl, rfl⟩ | ⟨start, hs, rfl⟩
  · exact .inl ⟨hm, by simp [ha, State.runLines, hm]⟩
  · exact .inr (by simpa [ha, State.runLines] using hs)

/-- A command that starts is at its arrival; INIT sets the lifecycle state besides. -/
theorem Starts.eq_arrive {i : Instr} {s start : State} (h : Starts i s start) :
    ∃ lines c, start = (s.arrive i lines).withCtx c := by
  obtain ⟨-, -, -, -, ⟨a, b, -, -, rfl⟩ | ⟨-, -, rfl⟩ | ⟨-, -, rfl⟩⟩ := h
  · exact ⟨_, _, rfl⟩
  · exact ⟨_, (s.arrive i deinitLines).ctx, rfl⟩
  · exact ⟨_, (s.arrive i (startLines s.cfg i)).ctx, rfl⟩

/-! ### At most one port event (R8, R10) -/

/-- The history of `t` is that of `s`, or has one event more. -/
def AddsAtMostOneEvent (s t : State) : Prop := t.history = s.history ∨ ∃ e, t.history = s.history ++ [e]

theorem AddsAtMostOneEvent.of_events {s t : State} {es : List Event} (hh : s.history <+: t.history)
    (he : t.events = s.events ++ es) (hl : es.length ≤ 1) : AddsAtMostOneEvent s t := by
  obtain ⟨new, hn⟩ := hh
  have hlen : new.length ≤ 1 := by
    have := congrArg List.length he
    simp only [State.events, ← hn, List.length_map, List.length_append] at this
    omega
  rcases Nat.le_one_iff_eq_zero_or_eq_one.mp hlen with h0 | h1
  · obtain rfl := List.length_eq_zero_iff.mp h0
    exact .inl (by simp [← hn])
  · obtain ⟨e, rfl⟩ := List.length_eq_one_iff.mp h1
    exact .inr ⟨e, hn.symm⟩

theorem AddsAtMostOneEvent.length_le {s t : State} (h : AddsAtMostOneEvent s t) : t.history.length ≤ s.history.length + 1 := by
  rcases h with h | ⟨e, h⟩ <;> simp [h]

theorem lineEvents_length_le (r : Nat) (p : Progress) (l : Line) (s : State) : (lineEvents r p l s).length ≤ 1 := by
  cases l <;> simp only [lineEvents] <;> (try split) <;> simp

theorem State.perform_addsAtMostOneEvent (s : State) (r : Nat) : AddsAtMostOneEvent s (s.perform r) := by
  unfold State.perform
  split
  · exact .inl rfl
  · split
    · exact .inl rfl
    · exact .of_events (s.lineStep_history r _ _) (s.lineStep_events r _ _) (lineEvents_length_le _ _ _ _)

theorem Starts.addsAtMostOneEvent {i : Instr} {s start : State} (h : Starts i s start) : AddsAtMostOneEvent s start := by
  obtain ⟨lines, c, rfl⟩ := h.eq_arrive
  obtain ⟨-, -, -, -, -, -, -, hh⟩ := s.arrive_kept i lines
  refine .of_events hh (s.arrive_events i lines) ?_
  unfold cmdEvents
  split <;> simp

theorem exec_line_addsAtMostOneEvent {i : Instr} {s t : State} (ha : s.alone = false) (h : exec i s = .next t) :
    AddsAtMostOneEvent s t := by
  rcases exec_line_next ha h with ⟨-, rfl⟩ | hs
  · exact s.perform_addsAtMostOneEvent s.cur
  · exact hs.addsAtMostOneEvent

/-- Settles O8: its next line is performed, and a line makes at most one port event. -/
theorem oneLineAtATimeBetweenAgents : Obligations.OneLineAtATimeBetweenAgents := by
  intro s p hp hw hm ha
  exact ⟨exec_performs_next_line hp hw hm ha, (s.perform_addsAtMostOneEvent s.cur).length_le⟩

/-- Settles O54: a step that runs an instruction runs one line of it, and every other step makes no port event. -/
theorem stepMakesAtMostOnePortEvent : Obligations.StepMakesAtMostOnePortEvent := by
  intro s t h
  obtain ⟨agenda, draws, ⟨r, p, -, hx⟩ | ⟨r, w, rest, i, -, -, -, hx⟩ | ⟨r, w, i, -, -, hx⟩ | ⟨n, rfl⟩ | ⟨a, v, m, -, rfl⟩ |
    ⟨r, w, rfl⟩ | rfl⟩ := step_next h
  · exact (exec_line_addsAtMostOneEvent (State.byLine_alone _) hx :)
  · exact (exec_line_addsAtMostOneEvent (State.byLine_alone _) hx :)
  · exact (exec_line_addsAtMostOneEvent (State.byLine_alone _) hx :)
  all_goals exact .inl rfl

/-! ### What no instruction touches (R10, R51, R201) -/

/-- Configuration, host memory and number of requesters of `t` are those of `s`. -/
def SameFrame (s t : State) : Prop := t.cfg = s.cfg ∧ t.mem = s.mem ∧ t.requesters.length = s.requesters.length

theorem SameFrame.trans {s t u : State} (h : SameFrame s t) (h' : SameFrame t u) : SameFrame s u := by
  obtain ⟨hcfg, hmem, hlen⟩ := h
  obtain ⟨hcfg', hmem', hlen'⟩ := h'
  exact ⟨hcfg'.trans hcfg, hmem'.trans hmem, hlen'.trans hlen⟩

theorem State.perform_kept (s : State) (r : Nat) :
    (s.perform r).cfg = s.cfg ∧ (s.perform r).mem = s.mem ∧ (s.perform r).cur = s.cur ∧
      (s.perform r).requesters.length = s.requesters.length ∧ (s.perform r).env.agenda = s.env.agenda ∧
      (s.perform r).env.grain = s.env.grain := by
  unfold State.perform
  split
  · simp
  · split
    · simp
    · exact s.lineStep_kept r _ _

theorem State.perform_sameFrame (s : State) (r : Nat) : SameFrame s (s.perform r) := by
  obtain ⟨hcfg, hmem, -, hlen, -⟩ := s.perform_kept r
  exact ⟨hcfg, hmem, hlen⟩

theorem Starts.sameFrame {i : Instr} {s start : State} (h : Starts i s start) : SameFrame s start := by
  obtain ⟨lines, c, rfl⟩ := h.eq_arrive
  obtain ⟨hcfg, -, hmem, -, hlen, -⟩ := s.arrive_kept i lines
  exact ⟨hcfg, hmem, hlen⟩

theorem exec_sameFrame {i : Instr} {s t : State} (h : exec i s = .next t) : SameFrame s t :=
  exec_keeps (P := SameFrame s) (fun u hu _ => hu.trans (u.perform_sameFrame u.cur)) (fun _ _ _ hu hst => hu.trans hst.sameFrame)
    ⟨rfl, rfl, rfl⟩ h

/-- A step keeps the frame, or is a host store at the head of the agenda, which changes host memory only. -/
theorem step_sameFrame_or_store {s t : State} (h : step s = .next t) :
    SameFrame s t ∨ ∃ addr value moves, s.env.agenda = .store addr value :: moves ∧ t.cfg = s.cfg ∧
      t.requesters.length = s.requesters.length ∧ t.mem = Memory.write s.mem addr.toNat value := by
  obtain ⟨agenda, draws, ⟨r, p, -, hx⟩ | ⟨r, w, rest, i, -, -, -, hx⟩ | ⟨r, w, i, -, -, hx⟩ | ⟨n, rfl⟩ |
    ⟨addr, value, moves, ha, rfl⟩ | ⟨r, w, rfl⟩ | rfl⟩ := step_next h
  · exact .inl (exec_sameFrame hx :)
  · obtain ⟨hcfg, hmem, hlen⟩ := exec_sameFrame hx
    exact .inl ⟨hcfg, hmem, by simpa [State.take] using hlen⟩
  · exact .inl (exec_sameFrame hx :)
  · exact .inl ⟨rfl, rfl, rfl⟩
  · exact .inr ⟨addr, value, moves, ha, rfl, rfl, rfl⟩
  · exact .inl ⟨rfl, rfl, by simp⟩
  · exact .inl ⟨rfl, rfl, rfl⟩

/-- Settles O52: the frame is kept but by a host store, which writes its byte into the canonical form. -/
theorem blockWritesNoMemory : Obligations.BlockWritesNoMemory := by
  intro s t h
  rcases step_sameFrame_or_store h with ⟨hcfg, hmem, hlen⟩ | ⟨addr, value, moves, ha, hcfg, hlen, hmem⟩
  · exact ⟨hcfg, hlen, fun hw => hmem ▸ hw, .inl hmem⟩
  · refine ⟨hcfg, hlen, fun hw => hmem ▸ Memory.write_wf hw addr value, .inr ⟨addr, value, moves, ha, fun a hw => ?_⟩⟩
    rw [hmem, Memory.read_write hw]

/-- Settles O59: no step changes the number of requesters or the parameter. -/
theorem requesterCountIsTheParameter : Obligations.RequesterCountIsTheParameter := by
  intro s t hs h
  obtain ⟨hcfg, hlen, -⟩ := blockWritesNoMemory s t h
  rw [hlen, hs, hcfg]

/-! ### A whole command is its steps (R8, R27; log 3) -/

/-- A line touches no requester but its own, of which it sets the sequencer position. -/
theorem State.lineStep_requesters (s : State) (r : Nat) (p : Progress) (l : Line) :
    (s.lineStep r p l).requesters = s.requesters.set r { s.req r with seq := lineSeq p l s } := by
  have key : ∀ (u : State) (x : Option Progress), u.requesters = s.requesters →
      (u.withSeq r x).requesters = s.requesters.set r { s.req r with seq := x } := by
    intro u x h
    rw [State.withSeq_requesters, State.req_congr r h, h]
  cases l with
  | openTransport | createLock =>
    simp only [State.lineStep, lineSeq]
    split <;> exact key _ _ rfl
  | waitReady => exact key _ _ (s.waitReady_requesters p.t)
  | becomeReady | freeContext | ret =>
    simp only [State.lineStep, State.finish]
    split <;> exact key _ _ rfl
  | _ => exact key _ _ rfl

theorem lineSeq_cmd {p q : Progress} {l : Line} {s : State} (h : lineSeq p l s = some q) : q.cmd = p.cmd := by
  cases l <;> simp only [lineSeq, Option.some.injEq, reduceCtorEq] at h <;> subst h <;> (try split) <;> rfl

/-- A performed line sets the sequencer position of its requester, to one of the same command or to none. -/
theorem State.perform_requesters {s : State} {r : Nat} {p : Progress} (hp : (s.req r).seq = some p) :
    ∃ x : Option Progress, (s.perform r).requesters = s.requesters.set r { s.req r with seq := x } ∧ ∀ q ∈ x, q.cmd = p.cmd := by
  unfold State.perform
  rw [hp]
  simp only
  split
  · exact ⟨none, rfl, by simp⟩
  · rename_i l rest _
    exact ⟨_, s.lineStep_requesters r _ l, fun q hq => lineSeq_cmd (p := { p with todo := rest }) hq⟩

theorem State.arrive_agenda (s : State) (i : Instr) (lines : List Line) : (s.arrive i lines).env.agenda = s.env.agenda := by
  unfold State.arrive
  split <;> rfl

theorem State.arrive_req_ne (s : State) (i : Instr) (lines : List Line) {r : Nat} (h : s.cur ≠ r) :
    (s.arrive i lines).req r = s.req r := by
  unfold State.arrive
  rw [State.req_withSeq_ne _ _ h]
  split <;> rfl

/-- What `alone` and the rest of a quiet start say, taken apart. -/
theorem State.quietStart_iff (s : State) : s.quietStart = true ↔
    s.cur < s.requesters.length ∧ s.cfg.legal = true ∧ s.alone = true ∧ (s.req s.cur).seq = none := by
  simp [State.quietStart, and_assoc]

/-- Whoever is alone has no agenda laid down and every other requester quiet. -/
theorem State.quiet_of_alone {s : State} (h : s.alone = true) :
    s.env.agenda = [] ∧ ∀ r, r ≠ s.cur → (s.req r).quiet = true := by
  simp only [State.alone, Bool.and_eq_true, List.isEmpty_iff, List.all_eq_true] at h
  obtain ⟨⟨-, hagenda⟩, hothers⟩ := h
  refine ⟨hagenda, fun r hr => ?_⟩
  cases hq : s.requesters[r]? with
  | none => simp [State.req, hq, Requester.quiet, Requester.fresh]
  | some q => simpa [State.req, hq] using hothers q (List.mem_eraseIdx_iff_getElem?.mpr ⟨r, hr, hq⟩)

/-- Only requester `r` has anything to do: it is the current one, steps run by line, nothing is laid down, every other requester is
quiet, and the command in progress is one that can be. -/
structure Solo (r : Nat) (s : State) : Prop where
  cur : s.cur = r
  byLine : s.byLine = s
  agenda : s.env.agenda = []
  others : ∀ r', r' ≠ r → (s.req r').quiet = true
  cmd : ∀ p, (s.req r).seq = some p → p.cmd.wellFormed = true

theorem Solo.movers {r : Nat} {s : State} (h : Solo r s) (hs : s.hasStep r = true) (hr : r < s.requesters.length) :
    s.movers = [r] := by
  have only : ∀ r' ∈ List.range s.requesters.length, s.hasStep r' = (r' == r) := by
    intro r' _
    by_cases e : r' = r
    · simp [e, hs]
    · simp [e, State.hasStep_quiet (h.others r' e)]
  rw [State.movers, List.filter_congr only, List.filter_beq,
    List.count_eq_one_of_mem List.nodup_range (List.mem_range.mpr hr), List.replicate_one]

/-- A command that starts alone is the only one in progress from its arrival on. -/
theorem Starts.solo {i : Instr} {s start : State} (h : Starts i s start) (ha : s.alone = true) : Solo s.cur start.byLine := by
  obtain ⟨lines, c, rfl⟩ := h.eq_arrive
  obtain ⟨hidle, hr, -, hw, -⟩ := h
  obtain ⟨hagenda, hothers⟩ := State.quiet_of_alone ha
  obtain ⟨-, -, -, hcur, -⟩ := s.arrive_kept i lines
  refine ⟨hcur, rfl, (s.arrive_agenda i lines).trans hagenda, fun r hne => ?_, fun p hp => ?_⟩
  · have hother : (s.arrive i lines).req r = s.req r := s.arrive_req_ne i lines (Ne.symm hne)
    exact hother ▸ hothers r hne
  · have hseq := s.arrive_seq i lines s.cur
    rw [if_pos ⟨rfl, hr⟩] at hseq
    obtain rfl : _ = p := Option.some.inj (hseq.symm.trans hp)
    exact hw

/-- A step of the machine is the next line of the only command in progress. -/
theorem Solo.step_eq {r : Nat} {s : State} (h : Solo r s) (hm : s.canMove r = true) : step s = .next (s.perform r) := by
  obtain ⟨p, hp, -⟩ := State.perform_cases hm
  have hone := h.movers ((State.hasStep_inProgress hp).trans hm) (State.lt_of_seq hp)
  have hself : (s.withCur r).byLine = s := by
    rw [← h.cur]
    exact h.byLine
  obtain rfl := h.cur
  rw [(stepResumesTheCommandInProgress s s.cur p hp hm).1 h.agenda hone, hself]
  exact exec_performs_next_line hp (h.cmd p hp) hm (h.byLine ▸ s.byLine_alone)

theorem Solo.perform {r : Nat} {s : State} (h : Solo r s) (hm : s.canMove r = true) : Solo r (s.perform r) := by
  obtain ⟨p, hp, -⟩ := State.perform_cases hm
  obtain ⟨x, hreq, hcmd⟩ := State.perform_requesters hp
  obtain ⟨-, -, hcur, -, hagenda, -⟩ := s.perform_kept r
  have hseq : ((s.perform r).req r).seq = x := by simp [State.req, hreq, State.lt_of_seq hp]
  refine ⟨hcur.trans h.cur, ?_, hagenda.trans h.agenda, fun r' hne => ?_, fun q hq => ?_⟩
  · rw [← State.perform_byLine, h.byLine]
  · have hother : (s.perform r).req r' = s.req r' := by simp [State.req, hreq, Ne.symm hne]
    rw [hother]
    exact h.others r' hne
  · rw [hcmd q (hseq.symm.trans hq)]
    exact h.cmd p hp

/-- The run of the only command in progress is a run of the machine. -/
theorem Solo.steps_runLines {r : Nat} : ∀ (k : Nat) {s : State}, Solo r s → ∃ n, Steps n s (State.runLines k r s)
  | 0, s, _ => ⟨0, rfl⟩
  | k + 1, s, h => by
    rw [State.runLines]
    split
    · rename_i hm
      obtain ⟨n, hn⟩ := Solo.steps_runLines k (h.perform hm)
      exact ⟨n + 1, _, h.step_eq hm, hn⟩
    · exact ⟨0, rfl⟩

/-- Settles O55: from its arrival on, the command is the only one in progress, so its run is a run of the machine. -/
theorem wholeCommandIsItsSteps : Obligations.WholeCommandIsItsSteps := by
  intro s t i hs h
  obtain ⟨-, -, ha, hidle⟩ := s.quietStart_iff.mp hs
  obtain ⟨start, hst, rfl, hline⟩ := exec_start hidle h
  obtain ⟨n, hn⟩ := (hst.solo ha).steps_runLines (if s.alone then s.budget else 0)
  exact ⟨start.byLine, n, hline, State.runLines_byLine _ _ _ ▸ hn⟩

/-! ### The wire byte as an instruction of its own (R10, R71, R193; log 15) -/

/-- Alone on a Ready context nothing hinders a command. -/
theorem State.unlessReady_of_alone {s : State} (hl : s.ctx.life = .ready) (ha : s.alone = true) (hq : (s.req s.cur).seq = none) :
    s.unlessReady = none := by
  have hidle : ∀ q ∈ s.requesters, q.seq = none := by
    intro q hmem
    obtain ⟨r, hr, rfl⟩ := List.mem_iff_getElem.mp hmem
    have hreq : s.req r = s.requesters[r] := by simp [State.req, hr]
    rw [← hreq]
    by_cases e : r = s.cur
    · rw [e, hq]
    · obtain ⟨-, hothers⟩ := State.quiet_of_alone ha
      have hquiet := hothers r e
      simp only [Requester.quiet, Bool.and_eq_true, Option.isNone_iff_eq_none] at hquiet
      exact hquiet.1
  have hnone : s.requesters.any Requester.deinitInProgress = false :=
    List.any_eq_false.mpr fun q hmem => by simp [Requester.deinitInProgress, hidle q hmem]
  simp [State.unlessReady, hl, hnone]

/-- What a Ready context with a requester alone gives, taken apart. -/
theorem State.readyAlone_iff (s : State) : s.readyAlone = true ↔ s.quietStart = true ∧ s.ctx.life = .ready ∧
    s.ctx.transportOpen = true ∧ s.ctx.lockExists = true ∧ s.ctx.lockOwner = none := by
  simp [State.readyAlone, and_assoc]

/-- A command admitted alone on a Ready context runs from its arrival to its end. -/
theorem State.readyCommand_of_readyAlone {s : State} (h : s.readyAlone = true) (i : Instr) (lines : List Line) :
    s.readyCommand i lines = .next (State.runLines s.budget s.cur (s.arrive i lines)) := by
  obtain ⟨hs, hlife, -⟩ := s.readyAlone_iff.mp h
  obtain ⟨hr, hlegal, ha, hq⟩ := s.quietStart_iff.mp hs
  have hadm : s.admission s.unlessReady = none := by
    simp [State.admission, hr, hlegal, State.unlessReady_of_alone hlife ha hq]
  simp [State.readyCommand, State.runCommand, hq, hadm, ha]

/-- The lone raw write inside a run. -/
theorem State.run_rawWrite {s : State} {r n : Nat} {i : Instr} {rest : List Line} {k v : Byte} {t t2 : Tick}
    (hr : r < s.requesters.length) (hopen : s.ctx.transportOpen = true) (howner : s.ctx.lockOwner = none) :
    State.runLines (n + 1) r (s.withSeq r (some ⟨i, .rawWrite v :: rest, k, t, t2⟩)) =
      State.runLines n r ((s.tWrite v).withSeq r
        (some (if s.env.nextWrite.isOk then ⟨i, rest, k, t, t2⟩ else (Progress.mk i rest k t t2).raiseTransfer false))) := by
  rw [State.runLines_at hr (by simp [State.hindrance, hopen, howner])]
  simp only [State.lineStep, State.writeLine, State.tWrite_withSeq, State.withSeq_withSeq]
  rfl

/-- Run alone, the wire byte is the port primitive: the line after the write returns its status to nobody (R83). -/
theorem exec_wireByte_of_readyAlone {s : State} (h : s.readyAlone = true) (value : Nibble) (backlight enable rs : Bool) :
    exec (.wireByte value backlight enable rs) s = .next (s.tWrite (wireByteOf s.cfg value backlight enable rs)) := by
  obtain ⟨hs, -, hopen, -, howner⟩ := s.readyAlone_iff.mp h
  obtain ⟨hr, -, -, hq⟩ := s.quietStart_iff.mp hs
  have ends : ∀ (u : State) (n : Nat) (st : Status), u.requesters = s.requesters →
      State.runLines (n + 1) s.cur (u.withSeq s.cur (some ⟨.wireByte value backlight enable rs, [.ret st], 0, 0, 0⟩)) = u := by
    intro u n st hu
    rw [State.run_ret (by rwa [hu])]
    exact State.withSeq_self ((congrArg Requester.seq (State.req_congr s.cur hu)).trans hq)
  refine (State.readyCommand_of_readyAlone h _ _).trans (congrArg Host.Outcome.next ?_)
  rw [show s.budget = (16 * s.cfg.stringCap + 94) + 1 + 1 from rfl]
  refine (State.run_rawWrite hr hopen howner).trans ?_
  split
  · exact ends _ _ .success rfl
  · exact ends _ _ .transferFailure rfl

/-- Settles O32: the whole command is `tWrite` of its byte, which pops one answer. -/
theorem wireByteIsOneRawWrite : Obligations.WireByteIsOneRawWrite := by
  intro s value backlight enable rs a ws h hw
  refine ⟨_, exec_wireByte_of_readyAlone h value backlight enable rs, rfl, ?_, ?_, ?_, ?_⟩
  · rw [State.tWrite_events, Env.nextWrite_cons hw]
  · rw [State.tWrite_expander, Env.nextWrite_cons hw]
  · simp [hw]
  · simp [Unchanged]

/-! ### The reset state (R6, R7; logs 1, 5) -/

theorem State.reset_seq (r : Nat) : (State.reset.req r).seq = none := by
  cases hq : State.reset.requesters[r]? with
  | none => simp [State.req, hq, Requester.fresh]
  | some q =>
    have : q = Requester.fresh := List.eq_of_mem_replicate (List.mem_of_getElem? hq)
    simp [State.req, hq, this, Requester.fresh]

/-- Settles O41: the tick is 0 and no command is in progress. -/
theorem tickWithinCapAtPowerOn : Obligations.TickWithinCapAtPowerOn := by
  refine ⟨by decide, Nat.zero_le _, fun r p hp => ?_⟩
  rw [State.reset_seq] at hp
  cases hp

/-- Settles O60: as many fresh requesters as the configuration says. -/
theorem requesterCountAtReset : Obligations.RequesterCountAtReset :=
  List.length_replicate

end Sys2Proof.Machine
end

section
/-! PROOF. The context's lock and lifecycle (spec/10_state.md): a requester at `Acquire` waits for the owner, every step keeps the
lock discipline, and only INIT and DEINIT touch the handles. -/

namespace Sys2Proof.Machine

/-! ### Waiting for the lock (R25, R196) -/

/-- At `Acquire` of an owned lock a command in progress has no step. -/
theorem State.blocked_at_acquire {s : State} {r owner : Nat} {p : Progress} {rest : List Line} (hp : (s.req r).seq = some p)
    (ht : p.todo = .acquire :: rest) (hl : s.ctx.lockExists = true) (ho : s.ctx.lockOwner = some owner) :
    s.blocked r = some .waitsForLock := by
  simp [State.blocked, hp, ht, State.hindrance, hl, ho]

/-- A requester whose command in progress is hindered has no step. -/
theorem State.hasStep_of_blocked {s : State} {r : Nat} {f : Fault} (h : s.blocked r = some f) : s.hasStep r = false := by
  unfold State.hasStep
  split
  · simp [State.canMove, h]
  · rename_i hq
    simp [State.blocked, hq] at h

/-- A laid-down turn of a requester that has no step is passed over (log 10). -/
theorem step_passes_over {s : State} {r : Nat} {moves : List Move} (ha : s.env.agenda = .run r :: moves)
    (hs : s.hasStep r = false) : step s = .next (s.withEnv { s.env with agenda := moves }) := by
  have hs' : (s.withEnv { s.env with agenda := moves }).hasStep r = false := hs
  simp [step, State.nextTurn, ha, State.moveTurn, hs', Turn.outcome]

/-- Settles O42: the owned lock blocks the requester, so its turn is passed over and its command, run anyway, is the fault. -/
theorem acquireWaitsForTheOwner : Obligations.AcquireWaitsForTheOwner := by
  intro s r owner p rest hp ht hl ho
  have hb : s.blocked r = some .waitsForLock := State.blocked_at_acquire hp ht hl ho
  refine ⟨State.hasStep_of_blocked hb, fun moves ha => step_passes_over ha (State.hasStep_of_blocked hb), fun hw => ?_⟩
  have hb' : (s.withCur r).blocked (s.withCur r).cur = some .waitsForLock := hb
  rw [exec_inProgress (s := s.withCur r) hp hw, State.resume, hb']

/-! ### The two halves of the lock discipline -/

/-- The lock's half: commands in progress take and release it in pairs, and its owner has a command in progress (R25, R64, R125). -/
structure PairedLock (s : State) : Prop where
  paired : ∀ r p, (s.req r).seq = some p → disciplined p.cmd (decide (s.ctx.lockOwner = some r)) p.todo = true
  ownerBusy : ∀ r, s.ctx.lockOwner = some r → (s.req r).seq.isSome = true

/-- The lifecycle's half: construction and teardown exclude every other command (R26, R235). -/
structure ExclusiveLifecycle (s : State) : Prop where
  excludes : ∀ r i r' i', s.inProgress r = some i → i.lifecycle = true → s.inProgress r' = some i' → r' = r
  absentIdle : s.ctx.life = .absent → ∀ r, s.inProgress r = none
  onlyInit : ∀ r i, s.inProgress r = some i → s.ctx.life ≠ .ready → ∃ a b, i = .init a b
  initConstructs : ∀ r a b, s.inProgress r = some (.init a b) → s.ctx.life = .constructing

theorem lockDiscipline_iff (s : State) : LockDiscipline s ↔ PairedLock s ∧ ExclusiveLifecycle s := by
  constructor
  · rintro ⟨hpaired, howner, hexcl, habsent, hinit, hcons⟩
    exact ⟨⟨hpaired, howner⟩, ⟨hexcl, habsent, hinit, hcons⟩⟩
  · rintro ⟨⟨hpaired, howner⟩, ⟨hexcl, habsent, hinit, hcons⟩⟩
    exact ⟨hpaired, howner, hexcl, habsent, hinit, hcons⟩

theorem State.inProgress_of_seq {s : State} {r : Nat} {p : Progress} (h : (s.req r).seq = some p) :
    s.inProgress r = some p.cmd := by
  simp [State.inProgress, h]

/-- The discipline speaks of the context and the sequencer positions only. -/
theorem LockDiscipline.congr {s u : State} (h : LockDiscipline s) (hctx : u.ctx = s.ctx)
    (hseq : ∀ r, (u.req r).seq = (s.req r).seq) : LockDiscipline u := by
  simpa only [LockDiscipline, State.inProgress, hctx, hseq] using h

/-- The lock's half after requester `r` has got the position `x`: every other requester holds the lock as before, and `r` is
disciplined from where it stands. -/
theorem PairedLock.update {s t : State} {r : Nat} {x : Option Progress} (h : PairedLock s)
    (hseq : ∀ r', (t.req r').seq = if r = r' then x else (s.req r').seq)
    (hothers : ∀ r', r' ≠ r → (t.ctx.lockOwner = some r' ↔ s.ctx.lockOwner = some r'))
    (hself : ∀ q ∈ x, disciplined q.cmd (decide (t.ctx.lockOwner = some r)) q.todo = true)
    (howner : t.ctx.lockOwner = some r → x.isSome = true) : PairedLock t := by
  constructor
  · intro r' p hp
    rw [hseq] at hp
    split at hp
    · subst r'
      exact hself p hp
    · rename_i hne
      rw [decide_eq_decide.mpr (hothers r' (Ne.symm hne))]
      exact h.paired r' p hp
  · intro r' ho
    rw [hseq]
    split
    · subst r'
      exact howner ho
    · rename_i hne
      exact h.ownerBusy r' ((hothers r' (Ne.symm hne)).mp ho)

/-- With the life as it was, commands may only end. -/
theorem ExclusiveLifecycle.mono {s t : State} (h : ExclusiveLifecycle s) (hlife : t.ctx.life = s.ctx.life)
    (hsub : ∀ r i, t.inProgress r = some i → s.inProgress r = some i) : ExclusiveLifecycle t where
  excludes r i r' i' hr hl hr' := h.excludes r i r' i' (hsub r i hr) hl (hsub r' i' hr')
  absentIdle ha r := by
    refine Option.eq_none_iff_forall_ne_some.mpr fun i hi => ?_
    have hsi := hsub r i hi
    rw [h.absentIdle (hlife ▸ ha) r] at hsi
    cases hsi
  onlyInit r i hr hl := h.onlyInit r i (hsub r i hr) (hlife ▸ hl)
  initConstructs r a b hr := hlife ▸ h.initConstructs r a b (hsub r _ hr)

theorem ExclusiveLifecycle.of_idle {t : State} (h : ∀ r, t.inProgress r = none) : ExclusiveLifecycle t := by
  constructor <;> simp [h]

/-- A lifecycle command is the only command in progress. -/
theorem ExclusiveLifecycle.idle_of_ne {s : State} (h : ExclusiveLifecycle s) {r r' : Nat} {i : Instr}
    (hr : s.inProgress r = some i) (hl : i.lifecycle = true) (hne : r' ≠ r) : s.inProgress r' = none :=
  Option.eq_none_iff_forall_ne_some.mpr fun _ hi => hne (h.excludes r i r' _ hr hl hi)

/-- While a lifecycle command of `r` is in progress no other requester owns the lock. -/
theorem LockDiscipline.owner_of_lifecycle {s : State} (h : LockDiscipline s) {r r' : Nat} {i : Instr}
    (hr : s.inProgress r = some i) (hl : i.lifecycle = true) (ho : s.ctx.lockOwner = some r') : r' = r := by
  obtain ⟨hlock, hexcl⟩ := (lockDiscipline_iff s).mp h
  obtain ⟨p, hp⟩ := Option.isSome_iff_exists.mp (hlock.ownerBusy r' ho)
  exact hexcl.excludes r i r' p.cmd hr hl (State.inProgress_of_seq hp)

/-! ### The lines of every command are disciplined -/

/-- A byte write takes the lock and releases it (R123). -/
theorem disciplined_byteLines_append {i : Instr} (hi : i ≠ .deinit) (c : Config) (isData : Bool) (b : Byte) (d : Tick)
    (rest : List Line) : disciplined i false (byteLines c isData b d ++ rest) = disciplined i false rest := by
  simp [byteLines, disciplined, hi]

theorem disciplined_stringLines (c : Config) (saddr : BitVec 16) (k : Nat) {i : Instr} (hl : i.lifecycle = false) :
    disciplined i false (stringLines c saddr k) = true := by
  unfold stringLines
  split <;> simp [disciplined, hl]

theorem ne_deinit_of_not_lifecycle {i : Instr} (hl : i.lifecycle = false) : i ≠ .deinit := by
  rintro rfl
  cases hl

/-- What follows a read string byte is disciplined (R171). -/
theorem disciplined_stringTail (c : Config) (saddr : BitVec 16) (k : Nat) (v : Byte) {i : Instr} (hl : i.lifecycle = false) :
    disciplined i false (stringTail c saddr k v) = true := by
  unfold stringTail
  split
  · simp [disciplined, hl]
  · rw [disciplined_byteLines_append (ne_deinit_of_not_lifecycle hl)]
    exact disciplined_stringLines c saddr (k + 1) hl

theorem disciplined_initLines (c : Config) (a : Byte) (b : Bool) : disciplined (.init a b) false (initLines c a b) = true := by
  simp [initLines, resetLines, bareNibbleLines, disciplined, disciplined_byteLines_append, Instr.lifecycle]

theorem disciplined_deinitLines : disciplined .deinit false deinitLines = true := by decide

/-- A command other than INIT and DEINIT starts with disciplined lines. -/
theorem disciplined_startLines (c : Config) {i : Instr} (hw : i.wellFormed = true) (hl : i.lifecycle = false) :
    disciplined i false (startLines c i) = true := by
  have byte : ∀ isData b d, disciplined i false (byteLines c isData b d ++ [.ret .success]) = true := by
    intro isData b d
    rw [disciplined_byteLines_append (ne_deinit_of_not_lifecycle hl)]
    simp [disciplined, hl]
  cases i with
  | init | deinit => cases hl
  | setCursor row column =>
    simp only [startLines]
    split
    · exact byte _ _ _
    · rfl
  | setBacklight | wireByte => rfl
  | writeString saddr => exact disciplined_stringLines c saddr 0 rfl
  | kSetCgramAddr => cases hw
  | _ => exact byte _ _ _

theorem disciplined_abortLines {i : Instr} (hi : i ≠ .deinit) : disciplined i false (abortLines i) = true := by
  cases i with
  | deinit => exact absurd rfl hi
  | _ => rfl

/-- A failed raw write leaves a disciplined rest: inside a byte write the lock is released first (R125). -/
theorem disciplined_raiseTransfer {p : Progress} (hi : p.cmd ≠ .deinit) (inByte : Bool) :
    disciplined p.cmd inByte (p.raiseTransfer inByte).todo = true := by
  cases inByte <;> simp [Progress.raiseTransfer, disciplined, disciplined_abortLines hi]

/-! ### One line and the lock -/

/-- Whether a requester holds the lock after its line. -/
def heldAfter (l : Line) (held : Bool) : Bool :=
  match l with
  | .acquire => true
  | .release => false
  | _ => held

/-- Who owns the lock after a line of requester `r`. -/
def ownerAfter (r : Nat) (l : Line) (owner : Option Nat) : Option Nat :=
  match l with
  | .acquire => some r
  | .release => none
  | _ => owner

/-- Where a command stands after a disciplined line, it is disciplined. -/
theorem lineSeq_disciplined {p : Progress} {l : Line} {rest : List Line} {held : Bool} (s : State)
    (hd : disciplined p.cmd held (l :: rest) = true) :
    ∀ q ∈ lineSeq { p with todo := rest } l s, disciplined q.cmd (heldAfter l held) q.todo = true := by
  intro q hq
  cases l with
  | alloc | openTransport | createLock =>
    simp only [disciplined, Bool.and_eq_true, Bool.not_eq_true'] at hd
    obtain ⟨⟨rfl, hl⟩, hrest⟩ := hd
    cases hq
    split
    · exact hrest
    · simp [disciplined, heldAfter, hl]
  | nibbleWrite n enable inByte =>
    simp only [disciplined, Bool.and_eq_true, beq_iff_eq, bne_iff_ne] at hd
    obtain ⟨⟨⟨rfl, -⟩, hi⟩, hrest⟩ := hd
    cases hq
    split
    · exact hrest
    · exact disciplined_raiseTransfer (p := { p with todo := rest }) hi inByte
  | rawWrite v =>
    simp only [disciplined, Bool.and_eq_true, Bool.not_eq_true'] at hd
    obtain ⟨⟨rfl, hl⟩, hrest⟩ := hd
    cases hq
    split
    · exact hrest
    · exact disciplined_raiseTransfer (p := { p with todo := rest }) (ne_deinit_of_not_lifecycle hl) false
  | readString saddr k =>
    simp only [disciplined, Bool.and_eq_true, Bool.not_eq_true'] at hd
    obtain ⟨⟨rfl, hl⟩, -⟩ := hd
    cases hq
    exact disciplined_stringTail s.cfg saddr k _ hl
  | becomeReady | freeContext | ret => cases hq
  | delay | control | readClock | waitReady | readClockAgain =>
    cases hq
    exact hd
  | _ =>
    cases hq
    exact (Bool.and_eq_true_iff.mp hd).2

/-- The line that ends a command is reached without the lock. -/
theorem not_held_of_lineSeq_none {p : Progress} {l : Line} {rest : List Line} {held : Bool} {s : State}
    (hd : disciplined p.cmd held (l :: rest) = true) (hq : lineSeq { p with todo := rest } l s = none) :
    heldAfter l held = false := by
  cases l with
  | becomeReady | freeContext | ret =>
    simp only [disciplined, Bool.and_eq_true, Bool.not_eq_true'] at hd
    obtain ⟨⟨rfl, -⟩, -⟩ := hd
    rfl
  | _ => cases hq

/-- Only `Acquire` and `Release` change the owner: where the handles are touched the lock is free already. -/
theorem lineCtx_lockOwner {s : State} {r : Nat} {p : Progress} {l : Line} {rest : List Line}
    (hd : disciplined p.cmd (decide (s.ctx.lockOwner = some r)) (l :: rest) = true)
    (honly : p.cmd.lifecycle = true → ∀ r', s.ctx.lockOwner = some r' → r' = r) :
    (lineCtx r { p with todo := rest } l s).lockOwner = ownerAfter r l s.ctx.lockOwner := by
  have free : s.ctx.lockOwner ≠ some r → p.cmd.lifecycle = true → s.ctx.lockOwner = none := by
    intro hne hl
    refine Option.eq_none_iff_forall_ne_some.mpr fun r' ho => ?_
    obtain rfl := honly hl r' ho
    exact hne ho
  cases l with
  | createLock | destroyLock | freeContext =>
    simp only [disciplined, Bool.and_eq_true, Bool.not_eq_true', decide_eq_false_iff_not] at hd
    obtain ⟨⟨hne, hl⟩, -⟩ := hd
    simp [lineCtx, ownerAfter, free hne hl, Context.absent, apply_ite Context.lockOwner]
  | openTransport =>
    simp only [lineCtx, ownerAfter]
    split <;> rfl
  | _ => rfl

/-- A line that has a step takes a free lock or releases its own: what other requesters hold stays. -/
theorem ownerAfter_other {s : State} {r r' : Nat} {l : Line} (hm : s.hindrance r l = none) (hne : r' ≠ r) :
    ownerAfter r l s.ctx.lockOwner = some r' ↔ s.ctx.lockOwner = some r' := by
  cases l with
  | acquire =>
    have hfree : s.ctx.lockOwner = none := by
      simp only [State.hindrance] at hm
      split at hm
      · split at hm
        · assumption
        · cases hm
      · cases hm
    simp [ownerAfter, hfree, Ne.symm hne]
  | release =>
    have hown : s.ctx.lockOwner = some r := by
      simp only [State.hindrance] at hm
      split at hm
      · assumption
      · cases hm
    simp [ownerAfter, hown, Ne.symm hne]
  | _ => rfl

theorem decide_ownerAfter (r : Nat) (l : Line) (owner : Option Nat) :
    decide (ownerAfter r l owner = some r) = heldAfter l (decide (owner = some r)) := by
  cases l with
  | acquire => exact decide_eq_true rfl
  | _ => rfl

/-- A line leaves the life as it was, or it ends a lifecycle command. -/
theorem lineCtx_life {p : Progress} {l : Line} {rest : List Line} {held : Bool} (s : State) (r : Nat)
    (hd : disciplined p.cmd held (l :: rest) = true) :
    (lineCtx r { p with todo := rest } l s).life = s.ctx.life ∨
      (p.cmd.lifecycle = true ∧ lineSeq { p with todo := rest } l s = none) := by
  cases l with
  | becomeReady | freeContext =>
    simp only [disciplined, Bool.and_eq_true] at hd
    obtain ⟨⟨-, hl⟩, -⟩ := hd
    exact .inr ⟨hl, rfl⟩
  | openTransport | createLock =>
    simp only [lineCtx]
    split <;> exact .inl rfl
  | _ => exact .inl rfl

/-- A disciplined command in progress that can move has a next line, with a step, and performs it. -/
theorem LockDiscipline.perform_eq {s : State} {r : Nat} (h : LockDiscipline s) (hm : s.canMove r = true) :
    ∃ p l rest, (s.req r).seq = some p ∧ disciplined p.cmd (decide (s.ctx.lockOwner = some r)) (l :: rest) = true ∧
      s.hindrance r l = none ∧ s.perform r = s.lineStep r { p with todo := rest } l := by
  obtain ⟨hlock, -⟩ := (lockDiscipline_iff s).mp h
  obtain ⟨p, hp, hnext⟩ := State.perform_cases hm
  have hd := hlock.paired r p hp
  rcases hnext with ⟨ht, -⟩ | ⟨l, rest, ht, hh, he⟩
  · rw [ht] at hd
    cases hd
  · rw [ht] at hd
    exact ⟨p, l, rest, hp, hd, hh, he⟩

/-- Every line keeps the lock discipline. -/
theorem LockDiscipline.perform {s : State} {r : Nat} (h : LockDiscipline s) (hm : s.canMove r = true) :
    LockDiscipline (s.perform r) := by
  obtain ⟨hlock, hexcl⟩ := (lockDiscipline_iff s).mp h
  obtain ⟨p, l, rest, hp, hd, hh, he⟩ := h.perform_eq hm
  have hcmd : s.inProgress r = some p.cmd := State.inProgress_of_seq hp
  have hseq : ∀ r', ((s.perform r).req r').seq =
      if r = r' then lineSeq { p with todo := rest } l s else (s.req r').seq := by
    intro r'
    rw [he, State.lineStep_seq]
    simp [State.lt_of_seq hp]
  have howner : (s.perform r).ctx.lockOwner = ownerAfter r l s.ctx.lockOwner := by
    rw [he, State.lineStep_ctx]
    exact lineCtx_lockOwner hd fun hl _ ho => h.owner_of_lifecycle hcmd hl ho
  refine (lockDiscipline_iff _).mpr ⟨hlock.update hseq ?_ ?_ ?_, ?_⟩
  · intro r' hne
    rw [howner]
    exact ownerAfter_other hh hne
  · intro q hq
    rw [howner, decide_ownerAfter]
    exact lineSeq_disciplined s hd q hq
  · intro ho
    by_contra hnone
    have hfree := not_held_of_lineSeq_none hd (Option.not_isSome_iff_eq_none.mp hnone)
    rw [← decide_ownerAfter, ← howner, ho, decide_eq_true rfl] at hfree
    cases hfree
  · rcases lineCtx_life s r hd with hlife | ⟨hl, hend⟩
    · refine hexcl.mono (by rw [he, State.lineStep_ctx, hlife]) fun r' i hi => ?_
      obtain ⟨q, hq, rfl⟩ := Option.map_eq_some_iff.mp hi
      rw [hseq] at hq
      split at hq
      · subst r'
        rw [lineSeq_cmd hq]
        exact hcmd
      · exact State.inProgress_of_seq hq
    · refine .of_idle fun r' => ?_
      rw [State.inProgress, hseq]
      split
      · simp [hend]
      · rename_i hne
        exact hexcl.idle_of_ne hcmd hl (Ne.symm hne)

/-! ### The start of a command and the lock -/

/-- An arriving command finds the lock not its requester's own, so disciplined lines keep the lock's half. -/
theorem PairedLock.arrive {s t : State} {i : Instr} {lines : List Line} (h : PairedLock s) (hidle : (s.req s.cur).seq = none)
    (hr : s.cur < s.requesters.length) (hd : disciplined i false lines = true) (hreq : t.requesters = (s.arrive i lines).requesters)
    (howner : t.ctx.lockOwner = s.ctx.lockOwner) : PairedLock t := by
  have hnot : s.ctx.lockOwner ≠ some s.cur := by
    intro ho
    have hbusy := h.ownerBusy _ ho
    rw [hidle] at hbusy
    cases hbusy
  refine h.update (r := s.cur) (x := some ⟨i, lines, 0, 0, 0⟩) (fun r' => ?_) (fun r' _ => by rw [howner]) ?_ fun _ => rfl
  · rw [State.req_congr r' hreq, State.arrive_seq]
    simp [hr]
  · rintro q ⟨⟩
    rw [howner, decide_eq_false hnot]
    exact hd

/-- Which commands are in progress after an arrival. -/
theorem State.arrive_inProgress {s : State} (hr : s.cur < s.requesters.length) (i : Instr) (lines : List Line) (r : Nat) :
    (s.arrive i lines).inProgress r = if s.cur = r then some i else s.inProgress r := by
  rw [State.inProgress, State.arrive_seq, State.inProgress]
  simp only [hr, and_true]
  split <;> rfl

/-- What DEINIT's condition says: the context is Ready and every other requester idle (R162). -/
theorem State.idle_of_unlessDeinit {s : State} (h : s.unlessDeinit = none) :
    s.ctx.life = .ready ∧ ∀ r, r ≠ s.cur → s.inProgress r = none := by
  unfold State.unlessDeinit at h
  split at h
  · rename_i hlife
    refine ⟨hlife, fun r hne => ?_⟩
    split at h
    · cases h
    · rename_i hbusy
      simp only [Bool.or_eq_true, not_or, List.any_eq_true, not_exists, not_and] at hbusy
      obtain ⟨hidle, -⟩ := hbusy
      cases hq : s.requesters[r]? with
      | none => simp [State.inProgress, State.req, hq, Requester.fresh]
      | some q =>
        have hq' := hidle q (List.mem_eraseIdx_iff_getElem?.mpr ⟨r, hne, hq⟩)
        simpa [State.inProgress, State.req, hq] using hq'
  · cases h

/-- What the other commands' condition says: the context is Ready and no DEINIT in progress (R160, R162). -/
theorem State.ready_of_unlessReady {s : State} (h : s.unlessReady = none) :
    s.ctx.life = .ready ∧ ∀ r, s.inProgress r ≠ some .deinit := by
  unfold State.unlessReady at h
  split at h
  · rename_i hlife
    refine ⟨hlife, fun r hdeinit => ?_⟩
    split at h
    · cases h
    · rename_i hnone
      obtain ⟨p, hp, hcmd⟩ := Option.map_eq_some_iff.mp hdeinit
      have hreq : s.req r = s.requesters[r]'(State.lt_of_seq hp) := by simp [State.req, State.lt_of_seq hp]
      refine hnone (List.any_eq_true.mpr ⟨s.req r, hreq ▸ List.getElem_mem _, ?_⟩)
      simp [Requester.deinitInProgress, hp, hcmd]
  · cases h

theorem lifecycle_iff (i : Instr) : i.lifecycle = true ↔ i = .deinit ∨ ∃ a b, i = .init a b := by
  cases i <;> simp [Instr.lifecycle]

/-- In a Ready context no INIT may be in progress, and a DEINIT only by itself. -/
theorem ExclusiveLifecycle.of_ready {t : State} (hready : t.ctx.life = .ready)
    (hexcl : ∀ r i r' i', t.inProgress r = some i → i.lifecycle = true → t.inProgress r' = some i' → r' = r)
    (hinit : ∀ r a b, t.inProgress r ≠ some (.init a b)) : ExclusiveLifecycle t where
  excludes := hexcl
  absentIdle ha := by
    rw [hready] at ha
    cases ha
  onlyInit _ _ _ hl := absurd hready hl
  initConstructs r a b hr := absurd hr (hinit r a b)

/-- Where every other requester is idle, the command that arrives is the only one in progress. -/
theorem State.arrive_only {s : State} {i : Instr} {lines : List Line} (hr : s.cur < s.requesters.length)
    (hothers : ∀ r, r ≠ s.cur → s.inProgress r = none) {r : Nat} {j : Instr}
    (hj : (s.arrive i lines).inProgress r = some j) : r = s.cur ∧ j = i := by
  rw [State.arrive_inProgress hr] at hj
  split at hj
  · rename_i e
    exact ⟨e.symm, (Option.some.inj hj).symm⟩
  · rename_i hne
    rw [hothers r (Ne.symm hne)] at hj
    cases hj

/-- INIT starts where nothing is in progress (R161). -/
theorem ExclusiveLifecycle.arrive_init {s : State} (h : ExclusiveLifecycle s) (hr : s.cur < s.requesters.length)
    (habsent : s.ctx.life = .absent) (a : Byte) (b : Bool) (lines : List Line) :
    ExclusiveLifecycle ((s.arrive (.init a b) lines).withLife .constructing) := by
  have only : ∀ r j, ((s.arrive (.init a b) lines).withLife .constructing).inProgress r = some j →
      r = s.cur ∧ j = .init a b :=
    fun _ _ => State.arrive_only hr fun r _ => h.absentIdle habsent r
  refine ⟨fun r i r' i' hi _ hi' => ?_, fun hlife => ?_, fun r i hi _ => ?_, fun _ _ _ _ => rfl⟩
  · rw [(only r i hi).1, (only r' i' hi').1]
  · cases hlife
  · exact ⟨a, b, (only r i hi).2⟩

/-- DEINIT starts where no other requester has a command in progress (R162). -/
theorem ExclusiveLifecycle.arrive_deinit {s : State} (hr : s.cur < s.requesters.length) (hadm : s.unlessDeinit = none)
    (lines : List Line) : ExclusiveLifecycle (s.arrive .deinit lines) := by
  obtain ⟨hready, hothers⟩ := State.idle_of_unlessDeinit hadm
  obtain ⟨-, hctx, -⟩ := s.arrive_kept .deinit lines
  refine .of_ready (hctx ▸ hready) (fun r i r' i' hi _ hi' => ?_) fun r a b hi => ?_
  · rw [(State.arrive_only hr hothers hi).1, (State.arrive_only hr hothers hi').1]
  · cases (State.arrive_only hr hothers hi).2

/-- Any other command starts where neither INIT nor DEINIT is in progress (R160, R162). -/
theorem ExclusiveLifecycle.arrive_other {s : State} (h : ExclusiveLifecycle s) (hr : s.cur < s.requesters.length) {i : Instr}
    (hl : i.lifecycle = false) (hadm : s.unlessReady = none) (lines : List Line) :
    ExclusiveLifecycle (s.arrive i lines) := by
  obtain ⟨hready, hnone⟩ := State.ready_of_unlessReady hadm
  obtain ⟨-, hctx, -⟩ := s.arrive_kept i lines
  have noLifecycle : ∀ r j, (s.arrive i lines).inProgress r = some j → j.lifecycle ≠ true := by
    intro r j hj hlj
    rw [State.arrive_inProgress hr] at hj
    split at hj
    · obtain rfl := Option.some.inj hj
      rw [hl] at hlj
      cases hlj
    · rcases (lifecycle_iff j).mp hlj with rfl | ⟨a, b, rfl⟩
      · exact hnone r hj
      · have hcons := h.initConstructs r a b hj
        rw [hready] at hcons
        cases hcons
  exact .of_ready (hctx ▸ hready) (fun r j _ _ hj hlj => absurd hlj (noLifecycle r j hj)) fun r a b hj => noLifecycle r _ hj rfl

/-- Every start keeps the lock discipline. -/
theorem LockDiscipline.starts {i : Instr} {s start : State} (h : LockDiscipline s) (hst : Starts i s start) :
    LockDiscipline start := by
  obtain ⟨hlock, hexcl⟩ := (lockDiscipline_iff s).mp h
  obtain ⟨hidle, hr, -, hw, hcases⟩ := hst
  have howner : ∀ j lines, (s.arrive j lines).ctx.lockOwner = s.ctx.lockOwner := by
    intro j lines
    obtain ⟨-, hctx, -⟩ := s.arrive_kept j lines
    rw [hctx]
  refine (lockDiscipline_iff start).mpr ?_
  rcases hcases with ⟨a, b, rfl, habsent, rfl⟩ | ⟨rfl, hadm, rfl⟩ | ⟨hl, hadm, rfl⟩
  · exact ⟨hlock.arrive hidle hr (disciplined_initLines s.cfg a b) rfl (howner _ _), hexcl.arrive_init hr habsent a b _⟩
  · exact ⟨hlock.arrive hidle hr disciplined_deinitLines rfl (howner _ _), .arrive_deinit hr hadm _⟩
  · exact ⟨hlock.arrive hidle hr (disciplined_startLines s.cfg hw hl) rfl (howner _ _), hexcl.arrive_other hr hl hadm _⟩

/-- Settles O44: no move outside the commands touches what the discipline speaks of, every line keeps it, and every start. -/
theorem lockDisciplineIsKept : Obligations.LockDisciplineIsKept := by
  intro s t hs h
  refine step_keeps (fun s u hs hout => ?_) (fun s hs hm => hs.perform hm) (fun i s start hs hst => hs.starts hst) hs h
  obtain ⟨-, hctx, -, -, -, hseq, -⟩ := hout
  exact hs.congr hctx hseq

/-! ### The handles (R21, R33) -/

/-- The address, the handles and the lifecycle state of `d` are those of `c`; so is the backlight, unless command `i` sets it. -/
def SameHandles (i : Instr) (c d : Context) : Prop :=
  d.address = c.address ∧ d.transportOpen = c.transportOpen ∧ d.lockExists = c.lockExists ∧ d.life = c.life ∧
    (i.setsBacklight = false → d.backlightOn = c.backlightOn)

theorem SameHandles.trans {i : Instr} {c d e : Context} (h : SameHandles i c d) (h' : SameHandles i d e) :
    SameHandles i c e := by
  obtain ⟨ha, ht, hl, hf, hb⟩ := h
  obtain ⟨ha', ht', hl', hf', hb'⟩ := h'
  exact ⟨ha'.trans ha, ht'.trans ht, hl'.trans hl, hf'.trans hf, fun hs => (hb' hs).trans (hb hs)⟩

theorem SameHandles.refl (i : Instr) (c : Context) : SameHandles i c c := by
  simp [SameHandles]

/-- A disciplined line of a command other than INIT and DEINIT leaves the handles as they were. -/
theorem lineCtx_sameHandles {i : Instr} {l : Line} {rest : List Line} {held : Bool} (hl : i.lifecycle = false)
    (hd : disciplined i held (l :: rest) = true) (r : Nat) (p : Progress) (s : State) :
    SameHandles i s.ctx (lineCtx r p l s) := by
  cases l with
  | fillDefaults | openTransport | createLock | closeTransport | destroyLock | becomeReady | freeContext =>
    simp [disciplined, hl] at hd
  | storeBacklight e =>
    have hb : i.setsBacklight = true := by
      simp only [disciplined, Bool.and_eq_true] at hd
      obtain ⟨⟨-, hb⟩, -⟩ := hd
      exact hb
    simp [SameHandles, lineCtx, hb]
  | acquire | release | recordTick | invalidate => simp [SameHandles, lineCtx]
  | _ => exact .refl i s.ctx

/-- The run of command `i` so far, from context `c`: the discipline holds, what is in progress is `i`, and the handles are those
of `c`. -/
structure KeepsHandles (i : Instr) (c : Context) (r : Nat) (s : State) : Prop where
  discipline : LockDiscipline s
  cmd : ∀ p, (s.req r).seq = some p → p.cmd = i
  handles : SameHandles i c s.ctx

theorem KeepsHandles.perform {i : Instr} {c : Context} {r : Nat} {s : State} (hl : i.lifecycle = false)
    (h : KeepsHandles i c r s) (hm : s.canMove r = true) : KeepsHandles i c r (s.perform r) := by
  obtain ⟨p, l, rest, hp, hd, -, he⟩ := h.discipline.perform_eq hm
  have hcmd : p.cmd = i := h.cmd p hp
  refine ⟨h.discipline.perform hm, fun q hq => ?_, h.handles.trans ?_⟩
  · rw [he, State.lineStep_seq, if_pos ⟨rfl, State.lt_of_seq hp⟩] at hq
    exact (lineSeq_cmd hq).trans hcmd
  · rw [he, State.lineStep_ctx]
    exact lineCtx_sameHandles hl (hcmd ▸ hd) r _ s

theorem KeepsHandles.runLines {i : Instr} {c : Context} {r : Nat} (hl : i.lifecycle = false) (n : Nat) {s : State}
    (h : KeepsHandles i c r s) : KeepsHandles i c r (State.runLines n r s) := by
  induction n generalizing s with
  | zero => exact h
  | succ n ih =>
    rw [State.runLines]
    split
    · rename_i hm
      exact ih (h.perform hl hm)
    · exact h

/-- A command other than INIT and DEINIT arrives without touching the context. -/
theorem Starts.keepsHandles {i : Instr} {s start : State} (hl : i.lifecycle = false) (h : LockDiscipline s)
    (hst : Starts i s start) : KeepsHandles i s.ctx s.cur start := by
  have hdisc : LockDiscipline start := h.starts hst
  obtain ⟨-, hr, -, -, ⟨a, b, rfl, -, -⟩ | ⟨rfl, -, -⟩ | ⟨-, -, rfl⟩⟩ := hst
  · cases hl
  · cases hl
  · obtain ⟨-, hctx, -⟩ := s.arrive_kept i (startLines s.cfg i)
    refine ⟨hdisc, fun p hp => ?_, hctx ▸ .refl i s.ctx⟩
    rw [State.arrive_seq, if_pos ⟨rfl, hr⟩] at hp
    obtain rfl := Option.some.inj hp
    rfl

/-- Settles O48: whether the command goes on or starts, each line it runs leaves the handles. -/
theorem onlyLifecycleCommandsTouchTheHandles : Obligations.OnlyLifecycleCommandsTouchTheHandles := by
  intro s t i h hl hx
  rcases exec_next hx with ⟨p, n, hp, hcmd, -, rfl, -⟩ | ⟨start, hst, rfl⟩
  · have h0 : KeepsHandles i s.ctx s.cur s :=
      ⟨h, fun q hq => (Option.some.inj (hp.symm.trans hq)) ▸ hcmd, .refl i s.ctx⟩
    exact (h0.runLines hl n).handles
  · exact ((hst.keepsHandles hl h).runLines hl _).handles

end Sys2Proof.Machine
end

section
/-! PROOF. Memory (spec/20_memory.md): the DDRAM address of a cursor position, command bytes never emitted, string bytes, the grant of
the lock, and whose raw writes reach the bus. -/

namespace Sys2Proof.Machine

/-! ### Whose raw writes reach the bus (R58, R61) -/

theorem attemptsOf_append (es fs : List Event) : attemptsOf (es ++ fs) = attemptsOf es ++ attemptsOf fs :=
  List.filterMap_append

/-- Only the two lines that write the bus make a raw write. -/
theorem line_of_attempt {r : Nat} {p : Progress} {l : Line} {s : State} (h : attemptsOf (lineEvents r p l s) ≠ []) :
    (∃ n enable inByte, l = .nibbleWrite n enable inByte) ∨ ∃ v, l = .rawWrite v := by
  cases l with
  | nibbleWrite n enable inByte => exact .inl ⟨n, enable, inByte, rfl⟩
  | rawWrite v => exact .inr ⟨v, rfl⟩
  | waitReady | becomeReady | freeContext | ret =>
    refine absurd ?_ h
    simp only [lineEvents]
    split <;> rfl
  | _ => exact absurd rfl h

/-- A lone wire byte has a step only where nobody owns the lock (log 15). -/
theorem State.free_of_rawWrite {s : State} {r : Nat} {v : Byte} (h : s.hindrance r (.rawWrite v) = none) :
    s.ctx.lockOwner = none := by
  simp only [State.hindrance] at h
  split at h
  · split at h
    · assumption
    · cases h
  · cases h

/-- Whoever's line makes a raw write while the lock is owned is the owner: a byte write holds the lock, a bare nibble belongs to a
lifecycle command, beside which no other is in progress, and a lone wire byte waits. -/
theorem LockDiscipline.owner_of_attempt {s : State} {r owner : Nat} (h : LockDiscipline s) (hm : s.canMove r = true)
    (ho : s.ctx.lockOwner = some owner) (hw : attemptsOf (s.perform r).events ≠ attemptsOf s.events) : r = owner := by
  obtain ⟨p, l, rest, hp, hd, hh, he⟩ := h.perform_eq hm
  rw [he, State.lineStep_events, attemptsOf_append, Ne, List.append_right_eq_self] at hw
  rcases line_of_attempt hw with ⟨n, enable, inByte, rfl⟩ | ⟨v, rfl⟩
  · simp only [disciplined, Bool.and_eq_true, Bool.or_eq_true, decide_eq_true_eq] at hd
    obtain ⟨⟨⟨-, hheld | hl⟩, -⟩, -⟩ := hd
    · exact Option.some.inj (hheld.symm.trans ho)
    · exact (h.owner_of_lifecycle (State.inProgress_of_seq hp) hl ho).symm
  · cases (State.free_of_rawWrite hh).symm.trans ho

/-- A command arrives without a raw write. -/
theorem Starts.attempts {i : Instr} {s start : State} (h : Starts i s start) : attemptsOf start.events = attemptsOf s.events := by
  obtain ⟨lines, c, rfl⟩ := h.eq_arrive
  rw [State.withCtx_events, State.arrive_events, attemptsOf_append, cmdEvents]
  split <;> exact List.append_nil _

/-- An instruction run by one line makes a raw write on behalf of the owner only. -/
theorem LockDiscipline.cur_of_exec_attempt {s t : State} {i : Instr} {owner : Nat} (h : LockDiscipline s) (ha : s.alone = false)
    (ho : s.ctx.lockOwner = some owner) (hx : exec i s = .next t) (hw : attemptsOf t.events ≠ attemptsOf s.events) :
    t.cur = owner := by
  rcases exec_line_next ha hx with ⟨hm, rfl⟩ | hst
  · rw [State.perform_cur]
    exact h.owner_of_attempt hm ho hw
  · exact absurd hst.attempts hw

/-- A step is a move outside the commands, or it runs an instruction by one line after such a move. -/
theorem step_outside_or_exec {s t : State} (h : step s = .next t) :
    OutsideMove s t ∨ ∃ u i, OutsideMove s u ∧ u.alone = false ∧ exec i u = .next t := by
  obtain ⟨agenda, draws, ⟨r, p, -, hx⟩ | ⟨r, w, rest, i, -, -, -, hx⟩ | ⟨r, w, i, -, -, hx⟩ | ⟨n, rfl⟩ | ⟨a, v, m, -, rfl⟩ |
    ⟨r, w, rfl⟩ | rfl⟩ := step_next h
  · refine .inr ⟨_, _, ?_, State.byLine_alone _, hx⟩
    exact ⟨rfl, rfl, rfl, rfl, rfl, fun _ => rfl, Nat.le_refl _⟩
  · refine .inr ⟨_, _, ?_, State.byLine_alone _, hx⟩
    exact ⟨rfl, rfl, rfl, rfl, List.length_set,
      State.seq_withReq_same (s := s) r (q := { s.req r with port := rest, side := w.side }) rfl, Nat.le_refl _⟩
  · refine .inr ⟨_, _, ?_, State.byLine_alone _, hx⟩
    exact ⟨rfl, rfl, rfl, rfl, rfl, fun _ => rfl, Nat.le_refl _⟩
  · exact .inl ⟨rfl, rfl, rfl, rfl, rfl, fun _ => rfl, Nat.le_add_right _ _⟩
  · exact .inl ⟨rfl, rfl, rfl, rfl, rfl, fun _ => rfl, Nat.le_refl _⟩
  · exact .inl ⟨rfl, rfl, rfl, rfl, List.length_set, State.seq_withReq_same (s := s) r rfl, Nat.le_refl _⟩
  · exact .inl ⟨rfl, rfl, rfl, rfl, rfl, fun _ => rfl, Nat.le_add_right_of_le (Nat.le_add_right _ _)⟩

/-- Settles O46: only a step that runs an instruction makes a raw write, and it moves the owner. -/
theorem rawWritesBelongToTheOwner : Obligations.RawWritesBelongToTheOwner := by
  intro s t owner h ho hstep hw
  rcases step_outside_or_exec hstep with ⟨-, -, -, hhist, -⟩ | ⟨u, i, ⟨-, hctx, -, hhist, -, hseq, -⟩, ha, hx⟩
  · exact absurd (by simp only [State.events, hhist]) hw
  · have hevents : u.events = s.events := by simp only [State.events, hhist]
    exact (h.congr hctx hseq).cur_of_exec_attempt ha (hctx ▸ ho) hx (hevents ▸ hw)

/-! ### The DDRAM address (R52, R167) -/

/-- Every value is at most the running maximum. -/
theorem le_foldl_max (f : Nat → Nat) (is : List Nat) (m : Nat) :
    m ≤ is.foldl (fun m i => max m (f i)) m ∧ ∀ i ∈ is, f i ≤ is.foldl (fun m i => max m (f i)) m := by
  induction is generalizing m with
  | nil => simp
  | cons j js ih =>
    obtain ⟨hm, hjs⟩ := ih (max m (f j))
    refine ⟨(le_max_left m (f j)).trans hm, fun i hi => ?_⟩
    rcases List.mem_cons.mp hi with rfl | hi
    · exact (le_max_right m (f i)).trans hm
    · exact hjs i hi

theorem rowOffset_le_maxRowOffset {c : Config} {row : Nat} (h : row < c.rowCount) : (c.rowOffset row).toNat ≤ c.maxRowOffset :=
  (le_foldl_max (fun i => (c.rowOffset i).toNat) (List.range c.rowCount) 0).2 row (List.mem_range.mpr h)

/-- Settles O21: the exact sum is below the bound of R6, so the 8-bit sum does not wrap. -/
theorem cursorAddressFitsSevenBits : Obligations.CursorAddressFitsSevenBits := by
  intro c row column hlegal hin
  obtain ⟨hrow, hcolumn⟩ : row.toNat < c.rowCount ∧ column.toNat < c.columnCount := by simpa [cursorInRange] using hin
  have hbound : c.columnCount + c.maxRowOffset ≤ 0x80 := by
    simp only [Config.legal, Config.legalGeometry, Bool.and_eq_true, decide_eq_true_eq] at hlegal
    obtain ⟨⟨-, -, hbound⟩, -⟩ := hlegal
    exact hbound
  have hoffset := rowOffset_le_maxRowOffset hrow
  have hsum : (ddramAddress c row column).toNat = column.toNat + (c.rowOffset row.toNat).toNat := by
    rw [ddramAddress, BitVec.toNat_add, Nat.mod_eq_of_lt]
    omega
  exact ⟨hsum, by omega⟩

/-! ### CGRAM (R53, R80) -/

/-- Settles O24: the two operations check the byte before anything else. -/
theorem neverEmittedBytesAreRefused : Obligations.NeverEmittedBytesAreRefused := by
  refine ⟨fun a s => rfl, fun l n f x s hne => ?_⟩
  have hw : ¬ (Instr.kFunctionSet l n f x).wellFormed = true := by
    simpa [Instr.wellFormed, and_assoc] using hne
  exact if_neg hw

/-! ### String memory (R63, R171) -/

/-- A requester with a next line performs it. -/
theorem State.perform_line {s : State} {r : Nat} {p : Progress} {l : Line} {rest : List Line} (hp : (s.req r).seq = some p)
    (ht : p.todo = l :: rest) : s.perform r = s.lineStep r { p with todo := rest } l := by
  simp [State.perform, hp, ht]

/-- Settles O31: the line's event and the rest of the command are made from the byte read. -/
theorem stringByteIsReadAtItsTurn : Obligations.StringByteIsReadAtItsTurn := by
  rintro s r p saddr i v hp ht rfl
  rw [State.perform_line hp ht]
  obtain ⟨-, hmem, -⟩ := s.lineStep_kept r { p with todo := [] } (.readString saddr i)
  refine ⟨s.lineStep_events r _ _, s.lineStep_ctx r _ _, hmem, ?_⟩
  rw [State.lineStep_seq, if_pos ⟨rfl, State.lt_of_seq hp⟩]
  rfl

/-! ### The grant of the lock (R61, R196) -/

/-- A requester at `Acquire` of a free lock has a step. -/
theorem State.canMove_at_acquire {s : State} {r : Nat} {p : Progress} {rest : List Line} (hp : (s.req r).seq = some p)
    (ht : p.todo = .acquire :: rest) (hl : s.ctx.lockExists = true) (ho : s.ctx.lockOwner = none) : s.canMove r = true := by
  simp [State.canMove, State.blocked, hp, ht, State.hindrance, hl, ho]

/-- A laid-down turn of a requester whose command has a step performs its next line. -/
theorem step_performs_laid_down {s : State} {r : Nat} {p : Progress} {moves : List Move} (ha : s.env.agenda = .run r :: moves)
    (hp : (s.req r).seq = some p) (hw : p.cmd.wellFormed = true) (hm : s.canMove r = true) :
    step s = .next (State.perform r ((s.withEnv { s.env with agenda := moves }).withCur r).byLine) := by
  rw [step_of_laid_down_run ha ((State.hasStep_inProgress hp).trans hm),
    State.turnOf_inProgress (s := s.withEnv { s.env with agenda := moves }) hp]
  exact exec_performs_next_line (s := ((s.withEnv { s.env with agenda := moves }).withCur r).byLine) hp hw hm
    (State.byLine_alone _)

/-- At `Acquire` the requester takes the lock. -/
theorem State.acquires_perform {s : State} {r : Nat} {p : Progress} {rest : List Line} (hp : (s.req r).seq = some p)
    (ht : p.todo = .acquire :: rest) : acquiresOf (s.perform r).events = acquiresOf s.events ++ [r] := by
  rw [State.perform_line hp ht, State.lineStep_events, acquiresOf, List.filterMap_append]
  rfl

/-- Settles O43: the turn is taken, and its line is the `Acquire`. -/
theorem everyGrantOrderIsAdmitted : Obligations.EveryGrantOrderIsAdmitted := by
  intro s r p rest moves hp ht hw hl ho ha
  refine ⟨_, step_performs_laid_down ha hp hw (State.canMove_at_acquire hp ht hl ho), ?_⟩
  rw [State.acquires_perform (s := ((s.withEnv { s.env with agenda := moves }).withCur r).byLine) hp ht]
  exact List.prefix_rfl

end Sys2Proof.Machine
end

section
/-! PROOF. A byte write in which nothing fails, as a command run alone: what it leaves is `ByteSent` (R123); and a CLEAR repeated
(spec/20_memory.md R59). -/

namespace Sys2Proof.Machine

/-! ### The wire bytes of the two nibbles (R73) -/

@[simp] theorem nibbleInPlace_upperNibble (b : Byte) : nibbleInPlace (upperNibble b) = upperInPlace b := by
  revert b
  decide

@[simp] theorem nibbleInPlace_lowerNibble (b : Byte) : nibbleInPlace (lowerNibble b) = lowerInPlace b := by
  revert b
  decide

@[simp] theorem nibbleWire_true (c : Config) (n : Nibble) (ctl : Byte) :
    nibbleWire c n ctl true = nibbleInPlace n ||| ctl ||| c.enBit := rfl

@[simp] theorem nibbleWire_false (c : Config) (n : Nibble) (ctl : Byte) : nibbleWire c n ctl false = nibbleInPlace n ||| ctl :=
  BitVec.or_zero

/-! ### What is unchanged -/

theorem Unchanged.trans {s t u : State} (h : Unchanged s t) (h' : Unchanged t u) : Unchanged s u := by
  obtain ⟨hcfg, hcur, hreq, hmem, hagenda, hallocs, hopens, hcreates, hgrain⟩ := h
  obtain ⟨hcfg', hcur', hreq', hmem', hagenda', hallocs', hopens', hcreates', hgrain'⟩ := h'
  exact ⟨hcfg'.trans hcfg, hcur'.trans hcur, hreq'.trans hreq, hmem'.trans hmem, hagenda'.trans hagenda,
    hallocs'.trans hallocs, hopens'.trans hopens, hcreates'.trans hcreates, hgrain'.trans hgrain⟩

theorem State.unchanged_port (s : State) (n : Nat) (ev : Event) : Unchanged s (s.port n ev) :=
  ⟨rfl, rfl, rfl, rfl, rfl, rfl, rfl, rfl, rfl⟩

/-- Whether a requester may run alone on a Ready context does not hang on the tick. -/
theorem State.readyAlone_of_unchanged {s t : State} (h : s.readyAlone = true) (hu : Unchanged s t) {tick : Tick}
    (hctx : t.ctx = { s.ctx with nextReadyTick := tick }) : t.readyAlone = true := by
  obtain ⟨hcfg, hcur, hreq, -, hagenda, -, -, -, hgrain⟩ := hu
  simpa only [State.readyAlone, State.quietStart, State.alone, State.req, hcfg, hcur, hreq, hagenda, hgrain, hctx] using h

/-! ### Arrival and return -/

/-- The state at the arrival of a command: `Cmd` has happened, the position is not set yet (R199). -/
def State.arrived (i : Instr) (s : State) : State :=
  if i.isHost then s.port 0 (.cmd s.cur (encode s.cfg i).bits24 (s.req s.cur).side) else s

/-- The state at the return of a command: its `Status` has happened (R199). -/
def State.returned (r : Nat) (i : Instr) (result : Status) (s : State) : State :=
  if i.isHost then s.port 0 (.status r (result.code s.cfg)) else s

theorem State.arrive_eq_arrived (s : State) (i : Instr) (lines : List Line) :
    s.arrive i lines = (s.arrived i).withSeq s.cur (some ⟨i, lines, 0, 0, 0⟩) := rfl

@[simp] theorem State.arrived_ctx (s : State) (i : Instr) : (s.arrived i).ctx = s.ctx := by
  unfold State.arrived; split <;> rfl

@[simp] theorem State.arrived_writes (s : State) (i : Instr) : (s.arrived i).env.writes = s.env.writes := by
  unfold State.arrived; split <;> rfl

theorem State.arrived_events (s : State) (i : Instr) : (s.arrived i).events = s.events ++ cmdEvents s i := by
  unfold State.arrived cmdEvents; split <;> simp

theorem State.arrived_clock (s : State) (i : Instr) : s.env.clock ≤ (s.arrived i).env.clock := by
  unfold State.arrived; split <;> simp

theorem State.unchanged_arrived (s : State) (i : Instr) : Unchanged s (s.arrived i) := by
  unfold State.arrived; split
  · exact s.unchanged_port _ _
  · simp [Unchanged]

@[simp] theorem State.returned_ctx (s : State) (r : Nat) (i : Instr) (st : Status) : (s.returned r i st).ctx = s.ctx := by
  unfold State.returned; split <;> rfl

@[simp] theorem State.returned_expander (s : State) (r : Nat) (i : Instr) (st : Status) :
    (s.returned r i st).expander = s.expander := by
  unfold State.returned; split <;> rfl

@[simp] theorem State.returned_writes (s : State) (r : Nat) (i : Instr) (st : Status) :
    (s.returned r i st).env.writes = s.env.writes := by
  unfold State.returned; split <;> rfl

theorem State.returned_events {s u : State} (hcfg : u.cfg = s.cfg) (i : Instr) (st : Status) :
    (u.returned s.cur i st).events = u.events ++ statusEvents s i st := by
  unfold State.returned statusEvents; split <;> simp [hcfg]

theorem State.returned_clock (s : State) (r : Nat) (i : Instr) (st : Status) :
    s.env.clock ≤ (s.returned r i st).env.clock := by
  unfold State.returned; split <;> simp

theorem State.unchanged_returned (s : State) (r : Nat) (i : Instr) (st : Status) : Unchanged s (s.returned r i st) := by
  unfold State.returned; split
  · exact s.unchanged_port _ _
  · simp [Unchanged]

/-- The end of a command whose requester was idle before it: only its `Status` is left to happen. -/
theorem State.run_ret_of_idle {s u : State} {r n : Nat} {i : Instr} {k : Byte} {t t2 : Tick} {st : Status}
    (hr : r < s.requesters.length) (hq : (s.req r).seq = none) (hu : Unchanged s u) :
    State.runLines (n + 1) r (u.withSeq r (some ⟨i, [.ret st], k, t, t2⟩)) = u.returned r i st := by
  obtain ⟨-, -, hreq, -⟩ := hu
  obtain ⟨-, -, hreq', -⟩ := u.unchanged_returned r i st
  refine (State.run_ret (by rwa [hreq])).trans (State.withSeq_self (s := u.returned r i st) ?_)
  rw [State.req_congr r (hreq'.trans hreq), hq]

/-! ### The parts of a byte write -/

theorem State.waitReady_events (s : State) (now : Tick) : (s.waitReady now).events = s.events ++ waitEvents s now := by
  unfold State.waitReady waitEvents waitFor
  by_cases h : now < s.ctx.nextReadyTick <;> simp [h]

theorem State.waitReady_clock (s : State) (now : Tick) :
    s.env.clock + waitedMicros s now ≤ (s.waitReady now).env.clock := by
  unfold State.waitReady waitedMicros waitFor
  by_cases h : now < s.ctx.nextReadyTick <;> simp [h]

theorem State.unchanged_waitReady (s : State) (now : Tick) : Unchanged s (s.waitReady now) := by
  unfold State.waitReady
  split
  · exact s.unchanged_port _ _
  · simp [Unchanged]

/-- The clock when WAIT reads it. -/
def State.waitClock (r : Nat) (s : State) : Nat := ((s.port 0 (.acquire r)).env.tick 0).clock

theorem State.byteNow_eq (s : State) (r : Nat) : s.byteNow r = BitVec.ofNat 64 (s.waitClock r) := rfl

theorem State.clock_le_waitClock (s : State) (r : Nat) : s.env.clock ≤ s.waitClock r := by
  simp [State.waitClock, Nat.add_assoc]

theorem State.byteStart_events (s : State) (r : Nat) :
    (s.byteStart r).events = s.events ++ [.acquire r, .now (s.byteNow r)] ++ waitEvents s (s.byteNow r) := by
  rw [State.byteStart, State.waitReady_events, State.now_events, State.withOwner_events, State.port_events,
    List.append_assoc s.events]
  rfl

theorem State.byteStart_clock (s : State) (r : Nat) :
    s.waitClock r + waitedMicros s (s.byteNow r) ≤ (s.byteStart r).env.clock :=
  State.waitReady_clock ((s.port 0 (.acquire r)).withOwner (some r)).now (s.byteNow r)

theorem State.unchanged_byteStart (s : State) (r : Nat) : Unchanged s (s.byteStart r) :=
  State.unchanged_waitReady ((s.port 0 (.acquire r)).withOwner (some r)).now (s.byteNow r)

theorem State.tWrite_events_ok {s : State} {ws : List WriteAnswer} (v : Byte) (hw : s.env.writes = .ok :: ws) :
    (s.tWrite v).events = s.events ++ [.tWrite v true] := by
  rw [State.tWrite_events, Env.nextWrite_cons hw]
  rfl

/-- Lines B3 to B5 make four raw writes, with their delays between them. -/
theorem State.byteWrite3_events {s : State} {ws : List WriteAnswer} (hw : s.env.writes = .ok :: .ok :: .ok :: .ok :: ws)
    (c : Config) (backlight isData : Bool) (b : Byte) :
    (s.byteWrite3 c (controlNibble c backlight isData) b).events = s.events ++ transferEvents c backlight isData b := by
  rw [State.byteWrite3, State.tWrite_events_ok (ws := ws) _ (by simp [hw]), State.delay_events,
    State.byteWrite2, State.tWrite_events_ok (ws := .ok :: ws) _ (by simp [hw]), State.delay_events,
    State.byteWrite1, State.tWrite_events_ok (ws := .ok :: .ok :: ws) _ (by simp [hw]), State.delay_events,
    State.byteWrite0, State.tWrite_events_ok _ hw]
  simp [transferEvents]

theorem State.byteWrite3_expander {s : State} {ws : List WriteAnswer} (hw : s.env.writes = .ok :: .ok :: .ok :: .ok :: ws)
    (c : Config) (ctl b : Byte) : (s.byteWrite3 c ctl b).expander = lowerInPlace b ||| ctl := by
  rw [State.byteWrite3, State.tWrite_expander, Env.nextWrite_cons (a := .ok) (l := ws) (by simp [hw])]
  simp [outputsAfter]

theorem State.byteWrite3_clock (s : State) (c : Config) (ctl b : Byte) :
    s.env.clock + 2 * c.enablePulse.toNat + c.enableSettle.toNat ≤ (s.byteWrite3 c ctl b).env.clock := by
  simp only [State.byteWrite3, State.byteWrite2, State.byteWrite1, State.byteWrite0, State.tWrite_env, State.delay_env,
    Env.tick_clock, Env.popWrite_clock]
  omega

theorem State.unchanged_tWrite (s : State) (v : Byte) : Unchanged s (s.tWrite v) :=
  ⟨rfl, rfl, rfl, rfl, rfl, rfl, rfl, rfl, rfl⟩

theorem State.unchanged_delay_tWrite (s : State) (n : Tick) (v : Byte) : Unchanged s ((s.delay n).tWrite v) :=
  (s.unchanged_port _ _).trans (State.unchanged_tWrite _ v)

theorem State.unchanged_byteWrite3 (s : State) (c : Config) (ctl b : Byte) : Unchanged s (s.byteWrite3 c ctl b) :=
  (s.unchanged_tWrite _).trans <| (State.unchanged_delay_tWrite _ _ _).trans <| (State.unchanged_delay_tWrite _ _ _).trans <|
    State.unchanged_delay_tWrite _ _ _

/-- The clock when RECORD reads it. -/
def State.recordClock (s : State) : Nat := (s.env.tick 0).clock

theorem State.clock_le_recordClock (s : State) : s.env.clock ≤ s.recordClock := by
  simp [State.recordClock]

theorem State.byteEnd_events (s : State) (r : Nat) (d : Tick) :
    (s.byteEnd r d).events = s.events ++ [.now (BitVec.ofNat 64 s.recordClock), .release r] := by
  simp [State.byteEnd, State.nowValue, State.recordClock]

theorem State.recordClock_le_byteEnd (s : State) (r : Nat) (d : Tick) : s.recordClock ≤ (s.byteEnd r d).env.clock := by
  simp [State.byteEnd, State.recordClock, Nat.add_assoc]

theorem State.unchanged_byteEnd (s : State) (r : Nat) (d : Tick) : Unchanged s (s.byteEnd r d) :=
  ⟨rfl, rfl, rfl, rfl, rfl, rfl, rfl, rfl, rfl⟩

/-- What WAIT does hangs on the tick and the cap only. -/
theorem waitFor_congr {s u : State} (hcfg : u.cfg = s.cfg) (hctx : u.ctx = s.ctx) : waitFor u = waitFor s := by
  funext now
  simp only [waitFor, hcfg, hctx]

/-! ### The byte write as a whole -/

/-- The clock when RECORD reads it, of a byte write that starts at `s`. -/
def State.doneClock (r : Nat) (isData : Bool) (b : Byte) (s : State) : Nat :=
  ((s.byteStart r).byteWrite3 s.cfg (s.byteControl isData) b).recordClock

theorem State.unchanged_byteDone (s : State) (r : Nat) (isData : Bool) (b : Byte) (d : Tick) :
    Unchanged s (s.byteDone r isData b d) :=
  (s.unchanged_byteStart r).trans ((State.unchanged_byteWrite3 _ _ _ _).trans (State.unchanged_byteEnd _ _ _))

theorem State.byteDone_ctx (s : State) (r : Nat) (isData : Bool) (b : Byte) (d : Tick) :
    (s.byteDone r isData b d).ctx = { s.ctx with
      nextReadyTick := BitVec.ofNat 64 (s.doneClock r isData b) + umax s.cfg.settleFloor d, lockOwner := none } := by
  simp [State.byteDone, State.doneClock, State.nowValue, State.recordClock]

theorem State.byteDone_writes (s : State) (r : Nat) (isData : Bool) (b : Byte) (d : Tick) :
    (s.byteDone r isData b d).env.writes = s.env.writes.drop 4 := by
  simp [State.byteDone]

theorem State.byteDone_events {s : State} {ws : List WriteAnswer} (hw : s.env.writes = .ok :: .ok :: .ok :: .ok :: ws)
    (r : Nat) (isData : Bool) (b : Byte) (d : Tick) :
    (s.byteDone r isData b d).events = s.events ++ [.acquire r, .now (s.byteNow r)] ++ waitEvents s (s.byteNow r) ++
      transferEvents s.cfg s.ctx.backlightOn isData b ++
      [.now (BitVec.ofNat 64 (s.doneClock r isData b)), .release r] := by
  rw [State.byteDone, State.byteEnd_events, State.byteControl, State.byteWrite3_events (ws := ws) (by simpa using hw),
    State.byteStart_events]
  rfl

theorem State.byteDone_expander {s : State} {ws : List WriteAnswer} (hw : s.env.writes = .ok :: .ok :: .ok :: .ok :: ws)
    (r : Nat) (isData : Bool) (b : Byte) (d : Tick) :
    (s.byteDone r isData b d).expander = lowerInPlace b ||| controlNibble s.cfg s.ctx.backlightOn isData :=
  State.byteWrite3_expander (s := s.byteStart r) (by simpa using hw) s.cfg (s.byteControl isData) b

/-- WAIT's delay and the three of the two nibbles lie between the two clock readings. -/
theorem State.waitClock_le_doneClock (s : State) (r : Nat) (isData : Bool) (b : Byte) :
    s.waitClock r + waitedMicros s (s.byteNow r) + 2 * s.cfg.enablePulse.toNat + s.cfg.enableSettle.toNat ≤
      s.doneClock r isData b := by
  have hstart := s.byteStart_clock r
  have hwrites := (s.byteStart r).byteWrite3_clock s.cfg (s.byteControl isData) b
  have hrecord := ((s.byteStart r).byteWrite3 s.cfg (s.byteControl isData) b).clock_le_recordClock
  rw [State.doneClock]
  omega

/-! ### A command that is one byte write, run alone -/

/-- Run alone with four `ok` answers, a command that is one byte write arrives, writes its byte and returns. -/
theorem State.byteCommand_ok {s : State} {ws : List WriteAnswer} (h : s.readyAlone = true)
    (hw : s.env.writes = .ok :: .ok :: .ok :: .ok :: ws) (i : Instr) (isData : Bool) (b : Byte) (d : Tick) :
    s.byteCommand i isData b d = .next (((s.arrived i).byteDone s.cur isData b d).returned s.cur i .success) := by
  obtain ⟨hs, -, hopen, hexists, howner⟩ := s.readyAlone_iff.mp h
  obtain ⟨hr, -, -, hq⟩ := s.quietStart_iff.mp hs
  obtain ⟨hcfg, -, hreq, -⟩ := s.unchanged_arrived i
  refine (State.readyCommand_of_readyAlone h i _).trans (congrArg Host.Outcome.next ?_)
  rw [show s.budget = (16 * s.cfg.stringCap + 81) + 1 + 14 from rfl, State.arrive_eq_arrived, ← hcfg,
    State.run_byte_ok (ws := ws) (by rwa [hreq]) (by simpa using hexists) (by simpa using howner) (by simpa using hopen)
      (by simpa using hw)]
  exact State.run_ret_of_idle hr hq ((s.unchanged_arrived i).trans (State.unchanged_byteDone _ _ _ _ _))

/-- Run alone with four `ok` answers, a command that is one byte write sends its byte (R123). -/
theorem State.byteCommand_sends {s : State} {ws : List WriteAnswer} (h : s.readyAlone = true)
    (hw : s.env.writes = .ok :: .ok :: .ok :: .ok :: ws) (i : Instr) (isData : Bool) (b : Byte) (d : Tick) :
    ∃ t, s.byteCommand i isData b d = .next t ∧ ByteSent s t i isData b d := by
  obtain ⟨-, -, -, -, howner⟩ := s.readyAlone_iff.mp h
  obtain ⟨hcfg, -⟩ := s.unchanged_arrived i
  have hdone := (s.unchanged_arrived i).trans ((s.arrived i).unchanged_byteDone s.cur isData b d)
  have hwait : waitFor (s.arrived i) = waitFor s := waitFor_congr hcfg (s.arrived_ctx i)
  have hw' : (s.arrived i).env.writes = .ok :: .ok :: .ok :: .ok :: ws := (s.arrived_writes i).trans hw
  refine ⟨_, State.byteCommand_ok h hw i isData b d, (s.arrived i).waitClock s.cur, (s.arrived i).doneClock s.cur isData b,
    (s.arrived_clock i).trans (State.clock_le_waitClock _ _), ?_,
    (State.recordClock_le_byteEnd _ _ _).trans (State.returned_clock _ _ _ _), ?_, ?_, ?_, ?_,
    hdone.trans (State.unchanged_returned _ _ _ _)⟩
  · have hclock := (s.arrived i).waitClock_le_doneClock s.cur isData b
    simpa only [waitedMicros, hwait, hcfg, State.byteNow_eq] using hclock
  · simp [State.byteDone_ctx, hcfg, howner]
  · rw [State.returned_events hdone.1, State.byteDone_events hw', State.arrived_events, waitEvents, hwait, hcfg,
      State.arrived_ctx]
    rfl
  · rw [State.returned_expander, State.byteDone_expander hw', hcfg, State.arrived_ctx]
  · rw [State.returned_writes, State.byteDone_writes, State.arrived_writes]

/-! ### A CLEAR repeated (R59) -/

/-- The raw writes of a byte write that does not fail are its four wire bytes. -/
theorem attemptsOf_transferEvents (c : Config) (backlight isData : Bool) (b : Byte) :
    attemptsOf (transferEvents c backlight isData b) = wireBytes c backlight isData b := rfl

theorem ByteSent.attempts {s t : State} {i : Instr} {isData : Bool} {b : Byte} {d : Tick} (h : ByteSent s t i isData b d) :
    attemptsOf t.events = attemptsOf s.events ++ wireBytes s.cfg s.ctx.backlightOn isData b := by
  obtain ⟨c1, c2, -, -, -, -, hevents, -⟩ := h
  have hcmd : attemptsOf (cmdEvents s i) = [] := by unfold cmdEvents; split <;> rfl
  have hwait : attemptsOf (waitEvents s (BitVec.ofNat 64 c1)) = [] := by unfold waitEvents; split <;> rfl
  have hstatus : attemptsOf (statusEvents s i .success) = [] := by unfold statusEvents; split <;> rfl
  have hstart : attemptsOf [.acquire s.cur, .now (BitVec.ofNat 64 c1)] = [] := rfl
  have hend : attemptsOf [.now (BitVec.ofNat 64 c2), .release s.cur] = [] := rfl
  rw [hevents]
  simp only [attemptsOf_append, attemptsOf_transferEvents, hcmd, hwait, hstatus, hstart, hend, List.append_nil]

/-- Settles O18: the first CLEAR leaves the requester alone on a Ready context with the same backlight, so the second sends what
the first did. -/
theorem clearTwiceSendsTheSameBytes : Obligations.ClearTwiceSendsTheSameBytes := by
  intro s ws h hw
  obtain ⟨t, ht, hsent⟩ := State.byteCommand_sends h hw .clear false s.cfg.cmdClear s.cfg.delayClear
  have hwires := hsent.attempts
  obtain ⟨c1, c2, -, -, -, hctx, -, -, hwrites, hu⟩ := hsent
  have ht' : t.readyAlone = true := State.readyAlone_of_unchanged h hu hctx
  have hw' : t.env.writes = .ok :: .ok :: .ok :: .ok :: ws := by rw [hwrites, hw]; rfl
  obtain ⟨u, hx, hsent'⟩ := State.byteCommand_sends ht' hw' .clear false t.cfg.cmdClear t.cfg.delayClear
  have hwires' := hsent'.attempts
  obtain ⟨c1', c2', -, -, -, hctx', -⟩ := hsent'
  obtain ⟨hcfg, -⟩ := hu
  refine ⟨t, u, ht, hx, ?_, ?_⟩
  · rw [hwires', hwires, hcfg, hctx]
  · rw [hctx', hctx]

end Sys2Proof.Machine
end

section
/-! PROOF. The encodings (spec/30_encoding.md): the decoder and the encoder undo each other in all three formats, which host words
are reserved, and what of a wire word or a command word is sent. -/

namespace Sys2Proof.Machine

/-! ### The host command word (R76, R77) -/

theorem exists_hostFields (w : BitVec 24) : ∃ op a b : Byte, w = op ++ a ++ b := by
  refine ⟨w.extractLsb' 16 8, w.extractLsb' 8 8, w.extractLsb' 0 8, ?_⟩
  rw [BitVec.extractLsb'_append_extractLsb'_eq_extractLsb' (by rfl),
    BitVec.extractLsb'_append_extractLsb'_eq_extractLsb' (by rfl), BitVec.extractLsb'_eq_self]

@[simp] theorem hostOp_append (op a b : Byte) : hostOp (op ++ a ++ b) = op := by
  rw [hostOp, BitVec.extractLsb'_append_eq_of_le (by decide)]
  exact BitVec.extractLsb'_append_eq_left

@[simp] theorem decodeHost_append (op a b : Byte) : decodeHost (op ++ a ++ b) = decodeOp op a b := by
  have hop : (op ++ a ++ b).extractLsb' 16 8 = op := hostOp_append op a b
  have ha : (op ++ a ++ b).extractLsb' 8 8 = a := by
    rw [BitVec.extractLsb'_append_eq_of_le (by decide)]
    exact BitVec.extractLsb'_append_eq_right
  have hb : (op ++ a ++ b).extractLsb' 0 8 = b := BitVec.extractLsb'_append_eq_right
  rw [decodeHost, hop, ha, hb]

theorem decode_hostWord (c : Config) (op a b : Byte) : decode c (hostWord op a b) = decodeOp op a b :=
  decodeHost_append op a b

@[simp] theorem ifZero_eq_ok {zeros : Bool} {i j : Instr} : Instr.ifZero zeros i = .ok j ↔ zeros = true ∧ i = j := by
  cases zeros <;> simp [Instr.ifZero]

@[simp] theorem ifZero_eq_error {zeros : Bool} {i : Instr} {why : DecodeError} :
    Instr.ifZero zeros i = .error why ↔ zeros = false ∧ why = .mustBeZero := by
  cases zeros <;> simp [Instr.ifZero, eq_comm]

/-- The word of a host command decodes to it, in any configuration. -/
theorem decode_encode_host (c : Config) {i : Instr} (h : i.isHost = true) : decode c (encode c i) = .ok i := by
  cases i with
  | init address backlightOn =>
    rw [encode, decode_hostWord]
    cases backlightOn <;> rfl
  | deinit | clear | home => rw [encode, decode_hostWord]; rfl
  | setDisplay d k b =>
    rw [encode, decode_hostWord]
    revert d k b
    decide
  | setEntryMode x y | scroll x y =>
    rw [encode, decode_hostWord]
    revert x y
    decide
  | setBacklight e =>
    rw [encode, decode_hostWord]
    revert e
    decide
  | setCursor row column => rw [encode, decode_hostWord]; rfl
  | writeChar ch => rw [encode, decode_hostWord]; rfl
  | writeString saddr =>
    have hs : saddr.extractLsb' 8 8 ++ saddr.extractLsb' 0 8 = saddr := by
      rw [BitVec.extractLsb'_append_extractLsb'_eq_extractLsb' (by rfl), BitVec.extractLsb'_eq_self]
    rw [encode, decode_hostWord]
    exact congrArg (fun x => Except.ok (Instr.writeString x)) hs
  | _ => cases h

/-! ### What a host word is (R76, R77, R79) -/

/-- The high bits of an operand byte are those that the mask of R79 keeps. -/
theorem highBits_eq_zero_iff (b : Byte) :
    (b.extractLsb' 1 7 = 0#7 ↔ b &&& 0xFE#8 = 0#8) ∧ (b.extractLsb' 2 6 = 0#6 ↔ b &&& 0xFC#8 = 0#8) ∧
      (b.extractLsb' 3 5 = 0#5 ↔ b &&& 0xF8#8 = 0#8) := by
  revert b
  decide

/-- An operand byte is its flags where its high bits are zero. -/
theorem flagBits_append (b : Byte) :
    (b.extractLsb' 1 7 = 0#7 → 0#7 ++ bit (b.getLsbD 0) = b) ∧
      (b.extractLsb' 2 6 = 0#6 → 0#6 ++ bit (b.getLsbD 1) ++ bit (b.getLsbD 0) = b) ∧
      (b.extractLsb' 3 5 = 0#5 → 0#5 ++ bit (b.getLsbD 2) ++ bit (b.getLsbD 1) ++ bit (b.getLsbD 0) = b) := by
  revert b
  decide

/-- A host word has the pattern of its row exactly where the masked operand bits are zero. -/
theorem masked_append_iff (op a b m1 m2 : Byte) :
    (op ++ a ++ b) &&& (0xFF#8 ++ m1 ++ m2) = op.zeroExtend 24 <<< 16 ↔ a &&& m1 = 0 ∧ b &&& m2 = 0 := by
  have hrow : op.zeroExtend 24 <<< 16 = op ++ 0#8 ++ 0#8 := by
    revert op
    decide
  have hmask : (op ++ a ++ b) &&& (0xFF#8 ++ m1 ++ m2) = op ++ (a &&& m1) ++ (b &&& m2) := by
    have h := Laws.hostWord_and (op := op) (a := a) (b := b) (m0 := 0xFF) (m1 := m1) (m2 := m2)
    have hop : op &&& 0xFF = op := BitVec.and_allOnes
    rwa [hop] at h
  rw [hmask, hrow]
  constructor
  · intro h
    have h1 := congrArg (BitVec.extractLsb' 8 16) h
    have h2 := congrArg (BitVec.extractLsb' 0 8) h
    simp only [BitVec.extractLsb'_append_eq_left, BitVec.extractLsb'_append_eq_right] at h1 h2
    have h3 := congrArg (BitVec.extractLsb' 0 8) h1
    simp only [BitVec.extractLsb'_append_eq_right] at h3
    exact ⟨h3, h2⟩
  · rintro ⟨h1, h2⟩
    rw [h1, h2]
    rfl

/-- The host word with fields `op`, `a`, `b` stands for command `i` where `zeros` holds, which says that its row's mask finds nothing
in the operand bits; there it is the word of `i`. -/
structure HostReading (op a b : Byte) (zeros : Bool) (i : Instr) : Prop where
  reads : decodeOp op a b = i.ifZero zeros
  host : i.isHost = true
  masked : zeros = true ↔ (op ++ a ++ b) &&& hostMask op.toNat = op.zeroExtend 24 <<< 16
  encodes : zeros = true → ∀ c, encode c i = hostWord op a b

/-- A reading of a row whose mask keeps the operand bits of `m1` and `m2`. -/
theorem HostReading.of_mask {op a b : Byte} {zeros : Bool} {i : Instr} (m1 m2 : Byte)
    (hreads : decodeOp op a b = i.ifZero zeros) (hhost : i.isHost = true) (hmask : hostMask op.toNat = 0xFF#8 ++ m1 ++ m2)
    (hzeros : zeros = true ↔ a &&& m1 = 0 ∧ b &&& m2 = 0)
    (hencodes : zeros = true → ∀ c, encode c i = hostWord op a b) : HostReading op a b zeros i :=
  ⟨hreads, hhost, by rw [hmask, masked_append_iff, hzeros], hencodes⟩

/-- A reading of a row that allows operand bits in `b` only. -/
theorem HostReading.of_maskB {op a b : Byte} {zeros : Bool} {i : Instr} (m2 : Byte)
    (hreads : decodeOp op a b = i.ifZero (a == 0 && zeros)) (hhost : i.isHost = true)
    (hmask : hostMask op.toNat = 0xFF#8 ++ 0xFF#8 ++ m2) (hzeros : zeros = true ↔ b &&& m2 = 0#8)
    (hencodes : zeros = true → ∀ c, encode c i = hostWord op 0 b) : HostReading op a b (a == 0 && zeros) i := by
  have hall : a &&& 0xFF#8 = a := BitVec.and_allOnes
  refine .of_mask 0xFF m2 hreads hhost hmask (by simp [hall, hzeros]) fun hz c => ?_
  obtain ⟨rfl, hb⟩ : a = 0#8 ∧ zeros = true := by simpa using hz
  exact hencodes hb c

/-- Every host word with an operation up to 0x0A has a reading. -/
theorem hostReading {op : Byte} (h : op.toNat ≤ 0x0A) (a b : Byte) : ∃ zeros i, HostReading op a b zeros i := by
  obtain ⟨mask1, mask2, mask3⟩ := highBits_eq_zero_iff b
  obtain ⟨flags1, flags2, flags3⟩ := flagBits_append b
  have all : ∀ x : Byte, x &&& 0xFF#8 = x := fun x => BitVec.and_allOnes
  have noOperands : b == 0 → ∀ op, hostWord op 0 0 = hostWord op 0 b := by simp +contextual
  obtain ⟨n, hn, rfl⟩ : ∃ n ≤ 0x0A, op = BitVec.ofNat 8 n := ⟨op.toNat, h, by simp⟩
  match n, hn with
  | 0, _ =>
    refine ⟨_, _, .of_mask 0x00 0xFE rfl rfl rfl (by simp [mask1]) fun hz c => ?_⟩
    rw [encode, flags1 (by simpa using hz)]
    rfl
  | 1, _ | 2, _ | 3, _ => exact ⟨_, _, .of_maskB 0xFF rfl rfl rfl (by simp [all]) fun hb _ => noOperands hb _⟩
  | 4, _ =>
    refine ⟨_, _, .of_maskB 0xF8 rfl rfl rfl (by simp [mask3]) fun hb c => ?_⟩
    rw [encode, flags3 (by simpa using hb)]
    rfl
  | 5, _ | 7, _ =>
    refine ⟨_, _, .of_maskB 0xFC rfl rfl rfl (by simp [mask2]) fun hb c => ?_⟩
    rw [encode, flags2 (by simpa using hb)]
    rfl
  | 6, _ => exact ⟨true, _, .of_mask 0x00 0x00 rfl rfl rfl (by simp) fun _ _ => rfl⟩
  | 8, _ =>
    refine ⟨_, _, .of_maskB 0xFE rfl rfl rfl (by simp [mask1]) fun hb c => ?_⟩
    rw [encode, flags1 (by simpa using hb)]
    rfl
  | 9, _ =>
    refine ⟨_, _, .of_mask 0xFF 0x00 rfl rfl rfl (by simp [all]) fun hz c => ?_⟩
    obtain rfl : a = 0#8 := by simpa using hz
    rfl
  | 10, _ =>
    refine ⟨true, _, .of_mask 0x00 0x00 rfl rfl rfl (by simp) fun _ _ => ?_⟩
    rw [encode, BitVec.extractLsb'_append_eq_right, BitVec.extractLsb'_append_eq_left]
    rfl

theorem decodeOp_reserved {op : Byte} (h : 0x0B ≤ op.toNat) (a b : Byte) : decodeOp op a b = .error .reservedOp := by
  unfold decodeOp
  split
  case h_12 => rfl
  all_goals omega

/-- A host word decodes to a host command only, and is the word of it. -/
theorem isHost_and_encode_of_decodeOp {op a b : Byte} {i : Instr} (h : decodeOp op a b = .ok i) :
    i.isHost = true ∧ ∀ c, encode c i = hostWord op a b := by
  by_cases hop : op.toNat ≤ 0x0A
  · obtain ⟨zeros, j, hr⟩ := hostReading hop a b
    rw [hr.reads, ifZero_eq_ok] at h
    obtain ⟨hz, rfl⟩ := h
    exact ⟨hr.host, hr.encodes hz⟩
  · rw [decodeOp_reserved (by omega)] at h
    cases h

/-- Settles O4: every row of the table of R76 stands for a host command. -/
theorem hostWordsAreHostCommands : Obligations.HostWordsAreHostCommands := by
  intro w i h
  obtain ⟨op, a, b, rfl⟩ := exists_hostFields w
  rw [decodeHost_append] at h
  exact (isHost_and_encode_of_decodeOp h).1

/-- The three clauses of R79 over the fields of a host word. -/
theorem decodeOp_trichotomy (op a b : Byte) :
    (decodeOp op a b = .error .reservedOp ↔ 0x0B ≤ op.toNat) ∧
    (decodeOp op a b = .error .mustBeZero ↔
      op.toNat ≤ 0x0A ∧ (op ++ a ++ b) &&& hostMask op.toNat ≠ op.zeroExtend 24 <<< 16) ∧
    ((∃ i, decodeOp op a b = .ok i) ↔
      op.toNat ≤ 0x0A ∧ (op ++ a ++ b) &&& hostMask op.toNat = op.zeroExtend 24 <<< 16) := by
  by_cases hop : op.toNat ≤ 0x0A
  · obtain ⟨zeros, i, hr⟩ := hostReading hop a b
    have hlt : ¬ 0x0B ≤ op.toNat := by omega
    rw [hr.reads, ← hr.masked, Ne, ← hr.masked]
    simp [hop, hlt]
  · have hge : 0x0B ≤ op.toNat := by omega
    simp [decodeOp_reserved hge, hop, hge]

/-- A requester whose turn comes to a reserved word is refused. -/
theorem State.turnOf_reserved {s : State} {r : Nat} {w : PortWord} {rest : List PortWord} {why : DecodeError}
    (hq : (s.req r).seq = none) (hw : (s.req r).port = w :: rest) (hd : decodeHost w.word = .error why) :
    s.turnOf r = .answer (.refused (.invalidWord why)) := by
  simp [State.turnOf, hq, hw, hd]

/-- Settles O3: the three cases of a word's fields, and the refusal of the turn, alone or laid down. -/
theorem reservedHostWordsAreRefused : Obligations.ReservedHostWordsAreRefused := by
  intro w
  obtain ⟨op, a, b, rfl⟩ := exists_hostFields w
  rw [decodeHost_append, hostOp_append]
  obtain ⟨hreserved, hzero, hok⟩ := decodeOp_trichotomy op a b
  refine ⟨hreserved, hzero, hok, fun s r side rest why hturn hq hw hd => ?_⟩
  rw [← decodeHost_append] at hd
  rcases hturn with ⟨ha, hm⟩ | ⟨moves, ha⟩
  · rw [step_of_only_mover ha hm, State.turnOf_reserved hq hw hd]
    rfl
  · rw [step_of_laid_down_run ha (State.hasStep_word hq hw),
      State.turnOf_reserved (s := s.withEnv { s.env with agenda := moves }) hq hw hd]
    rfl

/-! ### The command byte under the table's patterns (R74) -/

/-- Whether the instruction is a member of the Command Opcode Set (format K, R74). -/
def isCommandByte : Instr → Bool
  | .kClear => true
  | .kHome _ => true
  | .kEntryModeSet _ _ => true
  | .kDisplayControl _ _ _ => true
  | .kShift _ _ _ => true
  | .kFunctionSet _ _ _ _ => true
  | .kSetCgramAddr _ => true
  | .kSetDdramAddr _ => true
  | _ => false

/-- With the patterns of the opcode table, format K is read as under the default parameters. -/
theorem decodeCommand_of_tablePatterns {c : Config} (h : c.tablePatterns = true) (k : Byte) :
    decodeCommand c k = decodeCommand Config.default k := by
  simp only [Config.tablePatterns, Bool.and_eq_true, beq_iff_eq] at h
  simp only [decodeCommand, h]
  rfl

theorem encode_of_tablePatterns {c : Config} (h : c.tablePatterns = true) {i : Instr} (hi : isCommandByte i = true) :
    encode c i = encode Config.default i := by
  simp only [Config.tablePatterns, Bool.and_eq_true, beq_iff_eq] at h
  cases i with
  | kClear | kHome | kEntryModeSet | kDisplayControl | kShift | kFunctionSet | kSetCgramAddr | kSetDdramAddr =>
    simp only [encode, h]
    rfl
  | _ => cases hi

theorem decode_encode_command_default {i : Instr} (hi : isCommandByte i = true) :
    decode Config.default (encode Config.default i) = .ok i := by
  cases i with
  | kClear => rfl
  | kHome x => revert x; decide
  | kEntryModeSet x y => revert x y; decide
  | kDisplayControl d k b => revert d k b; decide
  | kShift t r x => revert t r x; decide
  | kFunctionSet l n f x => revert l n f x; decide
  | kSetCgramAddr a => revert a; decide
  | kSetDdramAddr a => revert a; decide
  | _ => cases hi

/-- No two command bytes decode to one instruction. -/
theorem encode_of_decodeCommand_default (k : Byte) :
    (okOf (decodeCommand Config.default k)).all (fun i => isCommandByte i && encode Config.default i == .command k) = true := by
  revert k
  decide

theorem decode_encode_command {c : Config} (h : c.tablePatterns = true) {i : Instr} (hi : isCommandByte i = true) :
    decode c (encode c i) = .ok i := by
  have hdefault := decode_encode_command_default hi
  rw [encode_of_tablePatterns h hi]
  cases i with
  | kClear | kHome | kEntryModeSet | kDisplayControl | kShift | kFunctionSet | kSetCgramAddr | kSetDdramAddr =>
    exact (decodeCommand_of_tablePatterns h _).trans hdefault
  | _ => cases hi

theorem encode_of_decodeCommand {c : Config} (h : c.tablePatterns = true) {k : Byte} {i : Instr}
    (hd : decodeCommand c k = .ok i) : encode c i = .command k := by
  have hall := encode_of_decodeCommand_default k
  rw [← decodeCommand_of_tablePatterns h, hd] at hall
  obtain ⟨hi, hk⟩ : isCommandByte i = true ∧ encode Config.default i = .command k := by simpa [okOf] using hall
  rw [encode_of_tablePatterns h hi, hk]

/-! ### The four lines of the wire byte (R6, R71) -/

/-- The four lines are single bits of the low nibble, and no two are the same. -/
theorem legalLines_iff (c : Config) : c.legalLines = true ↔
    Config.isLineBit c.rsBit = true ∧ Config.isLineBit c.rwBit = true ∧ Config.isLineBit c.enBit = true ∧
      Config.isLineBit c.backlightBit = true ∧ c.rsBit ≠ c.rwBit ∧ c.rsBit ≠ c.enBit ∧ c.rsBit ≠ c.backlightBit ∧
      c.rwBit ≠ c.enBit ∧ c.rwBit ≠ c.backlightBit ∧ c.enBit ≠ c.backlightBit := by
  simp [Config.legalLines, and_assoc]

theorem isLineBit_iff (m : Byte) : Config.isLineBit m = true ↔ m ∈ [0x01#8, 0x02#8, 0x04#8, 0x08#8] := by
  simp [Config.isLineBit, or_assoc]

theorem hasBit_or (x y m : Byte) : hasBit (x ||| y) m = (hasBit x m || hasBit y m) := by
  rw [hasBit, hasBit, hasBit, BitVec.and_or_distrib_right, Bool.eq_iff_iff]
  simp only [bne_iff_ne, Bool.or_eq_true, Ne, BitVec.ofNat_eq_ofNat, BitVec.or_eq_zero_iff, not_and_or]

theorem hasBit_flag (e : Bool) (m n : Byte) : hasBit (flag e m) n = (e && hasBit m n) := by
  cases e <;> simp [flag, hasBit]

theorem hasBit_lineBit {m n : Byte} (hm : Config.isLineBit m = true) (hn : Config.isLineBit n = true) :
    hasBit m n = decide (m = n) := by
  rw [isLineBit_iff] at hm hn
  revert n
  revert m
  decide

theorem hasBit_valueNibble (v : Nibble) {m : Byte} (hm : Config.isLineBit m = true) :
    hasBit (v.zeroExtend 8 <<< 4) m = false := by
  rw [isLineBit_iff] at hm
  revert v
  revert m
  decide

theorem extract_valueNibble (v : Nibble) : (v.zeroExtend 8 <<< 4).extractLsb' 4 4 = v := by
  revert v
  decide

theorem extract_flag_lineBit (e : Bool) {m : Byte} (hm : Config.isLineBit m = true) : (flag e m).extractLsb' 4 4 = 0#4 := by
  rw [isLineBit_iff] at hm
  revert e
  revert m
  decide

/-- The word of a wire byte decodes to it wherever the four lines are. -/
theorem decode_encode_wireByte {c : Config} (h : c.legalLines = true) (v : Nibble) (b e r : Bool) :
    decode c (encode c (.wireByte v b e r)) = .ok (.wireByte v b e r) := by
  obtain ⟨hrs, hrw, hen, hbl, rs_rw, rs_en, rs_bl, rw_en, rw_bl, en_bl⟩ := (legalLines_iff c).mp h
  simp [encode, decode, decodeWire, hasBit_or, hasBit_flag, hasBit_lineBit, hasBit_valueNibble, extract_valueNibble,
    extract_flag_lineBit, BitVec.extractLsb'_or, *, rs_en.symm, rs_bl.symm, rw_en.symm, rw_bl.symm, en_bl.symm]

/-- Settles O1, format by format: a host word has no parameters, a command byte those of the table, the wire byte four distinct
lines. -/
theorem decodeOfEncodeIsTheInstruction : Obligations.DecodeOfEncodeIsTheInstruction := by
  intro c i hlines htable
  cases i with
  | wireByte v b e r => exact decode_encode_wireByte hlines v b e r
  | kClear | kHome | kEntryModeSet | kDisplayControl | kShift | kFunctionSet | kSetCgramAddr | kSetDdramAddr =>
    exact decode_encode_command htable rfl
  | _ => exact decode_encode_host c rfl

/-- A single bit, set where the byte has it, is that bit of the byte. -/
theorem flag_hasBit {m : Byte} (hm : Config.isBit m = true) (x : Byte) : flag (hasBit x m) m = x &&& m := by
  obtain ⟨n, rfl, hne⟩ : ∃ n : Fin 8, m = BitVec.twoPow 8 n ∧ BitVec.twoPow 8 n ≠ 0#8 := by
    revert m
    decide
  rw [hasBit, BitVec.and_twoPow]
  cases x.getLsbD n <;> simp [flag, hne]

theorem isBit_of_isLineBit {m : Byte} (hm : Config.isLineBit m = true) : Config.isBit m = true := by
  rw [isLineBit_iff] at hm
  revert m
  decide

/-- The value nibble and the four lines are all bits of a wire byte: the lines are the four bits of the low nibble in some order. -/
theorem lines_cover {c : Config} (h : c.legalLines = true) :
    0xF0#8 ||| c.backlightBit ||| c.enBit ||| c.rsBit ||| c.rwBit = 0xFF#8 := by
  simp only [legalLines_iff, isLineBit_iff] at h
  obtain ⟨hrs, hrw, hen, hbl, rs_rw, rs_en, rs_bl, rw_en, rw_bl, en_bl⟩ := h
  have hnodup : [c.backlightBit, c.enBit, c.rsBit, c.rwBit].Nodup := by
    simp [rs_rw, rs_en.symm, rs_bl.symm, rw_en.symm, rw_bl.symm, en_bl.symm]
  have hsub : [c.backlightBit, c.enBit, c.rsBit, c.rwBit] ⊆ [0x01#8, 0x02#8, 0x04#8, 0x08#8] := by
    simp only [List.cons_subset, List.nil_subset]
    exact ⟨hbl, hen, hrs, hrw, trivial⟩
  have hperm := (List.subperm_of_subset hnodup hsub).perm_of_length_le (by simp)
  exact hperm.foldl_eq (f := (· ||| ·)) 0xF0#8

theorem valueNibble_extract (x : Byte) : (x.extractLsb' 4 4).zeroExtend 8 <<< 4 = x &&& 0xF0#8 := by
  revert x
  decide

/-- A wire byte that decodes is the word of what it decodes to, wherever the four lines are. -/
theorem encode_of_decodeWire {c : Config} (h : c.legalLines = true) {x : Byte} {i : Instr} (hd : decodeWire c x = .ok i) :
    encode c i = .wire x := by
  obtain ⟨hrs, -, hen, hbl, -⟩ := (legalLines_iff c).mp h
  unfold decodeWire at hd
  split at hd
  · cases hd
  · rename_i hrw
    obtain rfl := Except.ok.inj hd
    have hclear : x &&& c.rwBit = 0#8 := by simpa [hasBit] using hrw
    rw [encode, valueNibble_extract, flag_hasBit (isBit_of_isLineBit hbl), flag_hasBit (isBit_of_isLineBit hen),
      flag_hasBit (isBit_of_isLineBit hrs)]
    refine congrArg Word.wire ?_
    calc x &&& 0xF0#8 ||| x &&& c.backlightBit ||| x &&& c.enBit ||| x &&& c.rsBit
        = x &&& 0xF0#8 ||| x &&& c.backlightBit ||| x &&& c.enBit ||| x &&& c.rsBit ||| x &&& c.rwBit := by
          rw [hclear, BitVec.or_zero]
      _ = x &&& 0xFF#8 := by simp only [← BitVec.and_or_distrib_left, lines_cover h]
      _ = x := BitVec.and_allOnes

/-- Settles O2, format by format, as O1. -/
theorem encodeOfDecodeIsTheWord : Obligations.EncodeOfDecodeIsTheWord := by
  intro c w i hlines htable h
  cases w with
  | host w =>
    obtain ⟨op, a, b, rfl⟩ := exists_hostFields w
    rw [decode, decodeHost_append] at h
    exact (isHost_and_encode_of_decodeOp h).2 c
  | command k => exact encode_of_decodeCommand htable h
  | wire x => exact encode_of_decodeWire hlines h

/-! ### What is sent of a wire word and of a command word (R71, R74, R75) -/

theorem nibbleInPlace_eq (n : Nibble) : nibbleInPlace n = n.zeroExtend 8 <<< 4 := by
  revert n
  decide

theorem controlNibble_eq (c : Config) (backlight isData : Bool) :
    controlNibble c backlight isData = flag backlight c.backlightBit ||| flag isData c.rsBit := rfl

/-- A wire byte is its value nibble, its control nibble and the enable line. -/
theorem nibbleWire_eq (c : Config) (n : Nibble) (ctl : Byte) (enable : Bool) :
    nibbleWire c n ctl enable = n.zeroExtend 8 <<< 4 ||| ctl ||| flag enable c.enBit := by
  rw [nibbleWire, nibbleInPlace_eq]
  rfl

/-- The byte sent for a wire byte is its word. -/
theorem encode_wireByte (c : Config) (v : Nibble) (b e r : Bool) :
    encode c (.wireByte v b e r) = .wire (wireByteOf c v b e r) := by
  rw [encode, wireByteOf, nibbleWire_eq, controlNibble_eq]
  ac_rfl

/-- Settles O57: the byte sent is the encoder's word of the wire byte. -/
theorem wireByteSentIsTheWord : Obligations.WireByteSentIsTheWord := by
  intro c x v b e r hlines h
  have hword := encode_of_decodeWire hlines h
  rw [encode_wireByte] at hword
  exact Word.wire.inj hword

/-- What a command byte decodes to: the opcode is its highest set bit, the flags and the address are its other bits (log 21). -/
theorem decodeCommand_cases {c : Config} {k : Byte} {i : Instr} (h : decodeCommand c k = .ok i) :
    (topBit k = c.cmdSetDdram ∧ i = .kSetDdramAddr (k.extractLsb' 0 7)) ∨
    (topBit k = c.cmdSetCgram ∧ i = .kSetCgramAddr (k.extractLsb' 0 6)) ∨
    (topBit k = c.cmdFunctionSet ∧
      i = .kFunctionSet (hasBit k c.fs8Bit) (hasBit k c.fs2Line) (hasBit k c.fs5x10) (k.extractLsb' 0 2)) ∨
    (topBit k = c.cmdShift ∧ i = .kShift (hasBit k c.shDisplay) (hasBit k c.shRight) (k.extractLsb' 0 2)) ∨
    (topBit k = c.cmdDisplayControl ∧ i = .kDisplayControl (hasBit k c.dcDisplay) (hasBit k c.dcCursor) (hasBit k c.dcBlink)) ∨
    (topBit k = c.cmdEntryMode ∧ i = .kEntryModeSet (hasBit k c.emIncrement) (hasBit k c.emShift)) ∨
    (topBit k = c.cmdHome ∧ i = .kHome (k.getLsbD 0)) ∨
    (topBit k = c.cmdClear ∧ i = .kClear) := by
  unfold decodeCommand at h
  repeat' split at h
  all_goals cases h
  all_goals simp [*]

theorem topBit_and (k : Byte) : k &&& topBit k = topBit k := by
  revert k
  decide

theorem topBit_or_address (k : Byte) : topBit k ||| (k.extractLsb' 0 7).zeroExtend 8 = k := by
  revert k
  decide

/-- Which function-set is a byte write: the one that is emitted (R80). -/
theorem byteOf_kFunctionSet {c : Config} {l n f : Bool} {x : BitVec 2} {y : Bool × Byte × Tick}
    (h : byteOf c (.kFunctionSet l n f x) = some y) :
    l = false ∧ n = true ∧ f = false ∧ y = (false, c.cmdFunctionSet ||| c.fs2Line, c.delayFunctionSet) := by
  cases l <;> cases n <;> cases f <;> cases h
  simp

/-- Settles O58: the opcode and the flags sent are those bits of the command byte, and an address is the rest of it. -/
theorem commandByteSentIsTheWord : Obligations.CommandByteSentIsTheWord := by
  intro c k i isData b d hbits hd hb
  simp only [Config.bitOpcodes, List.all_cons, Bool.and_eq_true] at hbits
  obtain ⟨-, -, -, -, -, -, -, -, hincrement, hshift, hdisplay, hcursor, hblink, htarget, hright, height, htwo, hten, -⟩ :=
    hbits
  have htop := topBit_and k
  rcases decodeCommand_cases hd with ⟨ht, rfl⟩ | ⟨ht, rfl⟩ | ⟨ht, rfl⟩ | ⟨ht, rfl⟩ | ⟨ht, rfl⟩ | ⟨ht, rfl⟩ | ⟨ht, rfl⟩ | ⟨ht, rfl⟩
  all_goals rw [ht] at htop
  · cases hb
    refine ⟨rfl, ?_⟩
    rw [← ht, topBit_or_address]
    exact BitVec.and_allOnes.symm
  · cases hb
  · obtain ⟨h8, h2, h5, hy⟩ := byteOf_kFunctionSet hb
    cases hy
    refine ⟨rfl, ?_⟩
    have e8 : flag false c.fs8Bit = k &&& c.fs8Bit := h8 ▸ flag_hasBit height k
    have e2 : flag true c.fs2Line = k &&& c.fs2Line := h2 ▸ flag_hasBit htwo k
    have e5 : flag false c.fs5x10 = k &&& c.fs5x10 := h5 ▸ flag_hasBit hten k
    simp only [usedBits, BitVec.and_or_distrib_left, htop, ← e8, ← e2, ← e5]
    simp [flag]
  · cases hb
    exact ⟨rfl, by simp only [shiftByte, usedBits, BitVec.and_or_distrib_left, htop, flag_hasBit, htarget, hright]⟩
  · cases hb
    exact ⟨rfl, by
      simp only [displayControlByte, usedBits, BitVec.and_or_distrib_left, htop, flag_hasBit, hdisplay, hcursor, hblink]⟩
  · cases hb
    exact ⟨rfl, by simp only [entryModeByte, usedBits, BitVec.and_or_distrib_left, htop, flag_hasBit, hincrement, hshift]⟩
  · cases hb
    exact ⟨rfl, htop.symm⟩
  · cases hb
    exact ⟨rfl, htop.symm⟩

/-- Settles O5: each word is decoded. -/
theorem writtenOutWordsDecode : Obligations.WrittenOutWordsDecode := by
  refine ⟨?_, ?_, ?_, ?_, ?_, ?_, ?_, ?_, ?_⟩ <;> decide

/-! ### Internal operations (R83) -/

/-- A word of the block's own formats decodes to no host command. -/
theorem isHost_of_decode_inner {c : Config} {w : InnerWord} {i : Instr} (h : decode c w.word = .ok i) : i.isHost = false := by
  cases w with
  | command k =>
    rcases decodeCommand_cases h with ⟨-, rfl⟩ | ⟨-, rfl⟩ | ⟨-, rfl⟩ | ⟨-, rfl⟩ | ⟨-, rfl⟩ | ⟨-, rfl⟩ | ⟨-, rfl⟩ | ⟨-, rfl⟩
    all_goals rfl
  | wire x =>
    simp only [InnerWord.word, decode, decodeWire] at h
    split at h
    · cases h
    · cases h
      rfl

theorem State.innerTurn_word {s : State} {r : Nat} {w : InnerWord} {i : Instr} (hq : (s.req r).seq = none)
    (hd : decode s.cfg w.word = .ok i) : s.innerTurn r w = .run i (s.withCur r).byLine := by
  simp [State.innerTurn, hq, hd]

/-- A laid-down internal operation has its turn. -/
theorem step_of_laid_down_inner {s : State} {r : Nat} {w : InnerWord} {moves : List Move}
    (ha : s.env.agenda = .inner r w :: moves) :
    step s = ((s.withEnv { s.env with agenda := moves }).innerTurn r w).outcome := by
  simp [step, State.nextTurn, ha, State.moveTurn]

/-- Settles O56: the idle requester's operation has the turn, and its word is of no host command. -/
theorem stepRunsAnInnerOperation : Obligations.StepRunsAnInnerOperation := by
  intro s r w i moves ha hq hd
  refine ⟨isHost_of_decode_inner hd, ?_⟩
  rw [step_of_laid_down_inner ha, State.innerTurn_word (s := s.withEnv { s.env with agenda := moves }) hq hd]
  rfl

end Sys2Proof.Machine
end

section
/-! PROOF. No raw write sets the read/write line (spec/30_encoding.md R72, R80): the block makes wire bytes from value nibbles and
the other three lines only. -/

namespace Sys2Proof.Machine

/-! ### The read/write line of a wire byte -/

theorem rwClear_eq_not_hasBit (c : Config) (v : Byte) : rwClear c v = !hasBit v c.rwBit := by
  simp [rwClear, hasBit, bne]

/-- A control nibble that no line has set yet, or that one has (R72). -/
def IsControl (c : Config) (ctl : Byte) : Prop :=
  ∃ backlight isData, ctl = controlNibble c backlight isData ∨ ctl = 0

theorem isControl_controlNibble (c : Config) (backlight isData : Bool) : IsControl c (controlNibble c backlight isData) :=
  ⟨backlight, isData, .inl rfl⟩

theorem isControl_zero (c : Config) : IsControl c 0 := ⟨false, false, .inr rfl⟩

/-- No raw write of a nibble sets the read/write line. -/
theorem rwClear_nibbleWire {c : Config} (h : c.legalLines = true) {ctl : Byte} (hctl : IsControl c ctl) (n : Nibble)
    (enable : Bool) : rwClear c (nibbleWire c n ctl enable) = true := by
  obtain ⟨hrs, hrw, hen, hbl, rs_rw, -, -, rw_en, rw_bl, -⟩ := (legalLines_iff c).mp h
  have hctl' : hasBit ctl c.rwBit = false := by
    obtain ⟨b, d, rfl | rfl⟩ := hctl
    · simp [controlNibble_eq, hasBit_or, hasBit_flag, hasBit_lineBit, hbl, hrs, hrw, rs_rw, rw_bl.symm]
    · simp [hasBit]
  rw [rwClear_eq_not_hasBit, nibbleWire_eq]
  simp [hasBit_or, hasBit_flag, hasBit_lineBit, hasBit_valueNibble, hctl', hen, hrw, rw_en.symm]

theorem rwClear_wireByteOf {c : Config} (h : c.legalLines = true) (v : Nibble) (b e r : Bool) :
    rwClear c (wireByteOf c v b e r) = true :=
  rwClear_nibbleWire h (isControl_controlNibble c b r) v e

/-! ### Lone raw writes in the lines of the commands -/

theorem rawWritesClear_append (c : Config) (xs ys : List Line) :
    rawWritesClear c (xs ++ ys) = (rawWritesClear c xs && rawWritesClear c ys) := by
  induction xs with
  | nil => rfl
  | cons l xs ih => cases l <;> simp [rawWritesClear, ih, Bool.and_assoc]

theorem rawWritesClear_tail {c : Config} {l : Line} {rest : List Line} (h : rawWritesClear c (l :: rest) = true) :
    rawWritesClear c rest = true := by
  cases l with
  | rawWrite v => exact (Bool.and_eq_true_iff.mp h).2
  | _ => exact h

theorem rawWritesClear_byteLines (c k : Config) (isData : Bool) (b : Byte) (d : Tick) :
    rawWritesClear c (byteLines k isData b d) = true := rfl

theorem rawWritesClear_stringLines (c k : Config) (saddr : BitVec 16) (i : Nat) :
    rawWritesClear c (stringLines k saddr i) = true := by
  unfold stringLines
  split <;> rfl

theorem rawWritesClear_stringTail (c k : Config) (saddr : BitVec 16) (i : Nat) (v : Byte) :
    rawWritesClear c (stringTail k saddr i v) = true := by
  unfold stringTail
  split
  · rfl
  · rw [rawWritesClear_append, rawWritesClear_byteLines, rawWritesClear_stringLines]
    rfl

theorem rawWritesClear_raiseTransfer (c : Config) (p : Progress) (inByte : Bool) :
    rawWritesClear c (p.raiseTransfer inByte).todo = true := by
  have habort : rawWritesClear c (abortLines p.cmd) = true := by
    unfold abortLines
    split <;> rfl
  cases inByte <;> exact habort

/-- Only the lone wire byte starts with a raw write of its own, and its byte is clear. -/
theorem rawWritesClear_startLines {c : Config} (h : c.legalLines = true) (i : Instr) :
    rawWritesClear c (startLines c i) = true := by
  cases i with
  | setCursor row column =>
    simp only [startLines]
    split <;> rfl
  | writeString saddr => exact rawWritesClear_stringLines c c saddr 0
  | wireByte v b e r => simp [startLines, rawWritesClear, rwClear_wireByteOf h]
  | _ => rfl

/-! ### The invariant -/

/-- What the invariant says of a command in progress. -/
def ProgressClear (c : Config) (p : Progress) : Prop := IsControl c p.ctl ∧ rawWritesClear c p.todo = true

theorem readWriteNeverSet_iff (s : State) : ReadWriteNeverSet s ↔ s.cfg.legal = true ∧
    (∀ v ∈ attemptsOf s.events, rwClear s.cfg v = true) ∧ ∀ r p, (s.req r).seq = some p → ProgressClear s.cfg p :=
  Iff.rfl

theorem legalLines_of_legal {c : Config} (h : c.legal = true) : c.legalLines = true := by
  simp only [Config.legal, Bool.and_eq_true] at h
  obtain ⟨⟨⟨hlines, -⟩, -⟩, -⟩ := h
  exact hlines

/-- A line sends no wire byte with the read/write line set. -/
theorem rwClear_lineEvents {s : State} {r : Nat} {p : Progress} {l : Line} {rest : List Line} (hlines : s.cfg.legalLines = true)
    (hctl : IsControl s.cfg p.ctl) (htodo : rawWritesClear s.cfg (l :: rest) = true) :
    ∀ v ∈ attemptsOf (lineEvents r p l s), rwClear s.cfg v = true := by
  intro v hv
  rcases line_of_attempt (List.ne_nil_of_mem hv) with ⟨n, enable, inByte, rfl⟩ | ⟨u, rfl⟩
  · obtain rfl := List.mem_singleton.mp hv
    exact rwClear_nibbleWire hlines hctl n enable
  · obtain rfl := List.mem_singleton.mp hv
    exact (Bool.and_eq_true_iff.mp htodo).1

/-- Where a command stands after a line, it is clear again. -/
theorem ProgressClear.lineSeq {s : State} {p : Progress} {l : Line} (h : ProgressClear s.cfg p) :
    ∀ q ∈ lineSeq p l s, ProgressClear s.cfg q := by
  obtain ⟨hctl, htodo⟩ := h
  intro q hq
  cases l with
  | alloc | openTransport | createLock =>
    cases hq
    split
    · exact ⟨hctl, htodo⟩
    · exact ⟨hctl, rfl⟩
  | nibbleWrite | rawWrite =>
    cases hq
    split
    · exact ⟨hctl, htodo⟩
    · exact ⟨hctl, rawWritesClear_raiseTransfer s.cfg p _⟩
  | control isData =>
    cases hq
    exact ⟨isControl_controlNibble _ _ _, htodo⟩
  | readString saddr i =>
    cases hq
    exact ⟨hctl, rawWritesClear_stringTail _ _ _ _ _⟩
  | becomeReady | freeContext | ret => cases hq
  | _ =>
    cases hq
    exact ⟨hctl, htodo⟩

theorem ReadWriteNeverSet.perform {s : State} {r : Nat} (h : ReadWriteNeverSet s) (hm : s.canMove r = true) :
    ReadWriteNeverSet (s.perform r) := by
  obtain ⟨hlegal, hattempts, hprogress⟩ := (readWriteNeverSet_iff s).mp h
  obtain ⟨hcfg, -⟩ := s.perform_kept r
  obtain ⟨p, hp, ⟨-, he⟩ | ⟨l, rest, ht, -, he⟩⟩ := State.perform_cases hm
  · rw [he]
    refine (readWriteNeverSet_iff _).mpr ⟨hlegal, hattempts, fun r' q hq => ?_⟩
    rw [State.seq_withSeq] at hq
    split at hq
    · cases hq
    · exact hprogress r' q hq
  · obtain ⟨hctl, htodo⟩ := hprogress r p hp
    rw [ht] at htodo
    refine (readWriteNeverSet_iff _).mpr ⟨hcfg ▸ hlegal, fun v hv => ?_, fun r' q hq => ?_⟩
    · rw [he, State.lineStep_events, attemptsOf_append, List.mem_append] at hv
      rw [hcfg]
      rcases hv with hv | hv
      · exact hattempts v hv
      · exact rwClear_lineEvents (legalLines_of_legal hlegal) hctl htodo v hv
    · rw [he, State.lineStep_seq] at hq
      rw [hcfg]
      split at hq
      · exact ProgressClear.lineSeq (p := { p with todo := rest }) ⟨hctl, rawWritesClear_tail htodo⟩ q hq
      · exact hprogress r' q hq

/-- The lines a command starts with. -/
theorem Starts.arrives_clear {i : Instr} {s start : State} (hlines : s.cfg.legalLines = true) (h : Starts i s start) :
    ∃ lines c, start = (s.arrive i lines).withCtx c ∧ rawWritesClear s.cfg lines = true := by
  obtain ⟨-, -, -, -, ⟨a, b, -, -, rfl⟩ | ⟨-, -, rfl⟩ | ⟨-, -, rfl⟩⟩ := h
  · exact ⟨_, _, rfl, rfl⟩
  · exact ⟨deinitLines, _, rfl, rfl⟩
  · exact ⟨startLines s.cfg i, _, rfl, rawWritesClear_startLines hlines i⟩

theorem ReadWriteNeverSet.starts {i : Instr} {s start : State} (h : ReadWriteNeverSet s) (hst : Starts i s start) :
    ReadWriteNeverSet start := by
  obtain ⟨hlegal, hattempts, hprogress⟩ := (readWriteNeverSet_iff s).mp h
  have hsame := hst.attempts
  obtain ⟨hcfg, -⟩ := hst.sameFrame
  obtain ⟨lines, c, rfl, hclear⟩ := hst.arrives_clear (legalLines_of_legal hlegal)
  refine (readWriteNeverSet_iff _).mpr ⟨hcfg ▸ hlegal, fun v hv => ?_, fun r p hp => ?_⟩
  · rw [hcfg]
    exact hattempts v (hsame ▸ hv)
  · rw [hcfg]
    have hseq : ((s.arrive i lines).req r).seq = some p := hp
    rw [State.arrive_seq] at hseq
    split at hseq
    · obtain rfl := Option.some.inj hseq
      exact ⟨isControl_zero _, hclear⟩
    · exact hprogress r p hseq

/-- Settles O50: no move outside the commands makes a raw write or moves a command, every line keeps the invariant, and every
start. -/
theorem readWriteLineStaysClear : Obligations.ReadWriteLineStaysClear := by
  intro s t hs h
  refine step_keeps (fun s u hs hout => ?_) (fun s hs hm => hs.perform hm) (fun i s start hs hst => hs.starts hst) hs h
  obtain ⟨hcfg, -, -, hhist, -, hseq, -⟩ := hout
  simpa only [ReadWriteNeverSet, State.events, hcfg, hhist, hseq] using hs

/-- Settles O51: the history is empty and no command is in progress. -/
theorem readWriteClearAtPowerOn : Obligations.ReadWriteClearAtPowerOn := by
  refine ⟨by decide, fun v hv => absurd hv List.not_mem_nil, fun r p hp => ?_⟩
  rw [State.reset_seq] at hp
  cases hp

end Sys2Proof.Machine
end

section
/-! PROOF. A byte write in which a raw write fails, as a command run alone: what it leaves is `ByteFailed` (R125). With what one
leaves in which nothing fails it gives `SendsByte`, and the command bytes of spec/30_encoding.md R74 are such commands. -/

namespace Sys2Proof.Machine

/-! ### The raw writes up to the one that fails -/

theorem State.unchanged_byteWrite0 (s : State) (c : Config) (ctl b : Byte) : Unchanged s (s.byteWrite0 c ctl b) :=
  s.unchanged_tWrite _

theorem State.unchanged_byteWrite1 (s : State) (c : Config) (ctl b : Byte) : Unchanged s (s.byteWrite1 c ctl b) :=
  (s.unchanged_byteWrite0 c ctl b).trans (State.unchanged_delay_tWrite _ _ _)

theorem State.unchanged_byteWrite2 (s : State) (c : Config) (ctl b : Byte) : Unchanged s (s.byteWrite2 c ctl b) :=
  (s.unchanged_byteWrite1 c ctl b).trans (State.unchanged_delay_tWrite _ _ _)

/-- A statement about the raw writes up to index `k`, from one about each of the four. -/
theorem State.byteCut_cases {P : Nat → State → Prop} {s : State} {c : Config} {ctl b : Byte} (h0 : P 0 (s.byteWrite0 c ctl b))
    (h1 : P 1 (s.byteWrite1 c ctl b)) (h2 : P 2 (s.byteWrite2 c ctl b)) (h3 : P 3 (s.byteWrite3 c ctl b)) {k : Nat} (hk : k < 4) :
    P k (s.byteCut c ctl b k) := by
  match k, hk with
  | 0, _ => exact h0
  | 1, _ => exact h1
  | 2, _ => exact h2
  | 3, _ => exact h3

theorem State.unchanged_byteCut (s : State) (c : Config) (ctl b : Byte) {k : Nat} (hk : k < 4) :
    Unchanged s (s.byteCut c ctl b k) :=
  State.byteCut_cases (P := fun _ t => Unchanged s t) (s.unchanged_byteWrite0 c ctl b) (s.unchanged_byteWrite1 c ctl b)
    (s.unchanged_byteWrite2 c ctl b) (s.unchanged_byteWrite3 c ctl b) hk

theorem State.byteCut_ctx (s : State) (c : Config) (ctl b : Byte) {k : Nat} (hk : k < 4) :
    (s.byteCut c ctl b k).ctx = s.ctx :=
  State.byteCut_cases (P := fun _ t => t.ctx = s.ctx) (by simp) (by simp) (by simp) (by simp) hk

theorem State.byteCut_writes (s : State) (c : Config) (ctl b : Byte) {k : Nat} (hk : k < 4) :
    (s.byteCut c ctl b k).env.writes = s.env.writes.drop (k + 1) :=
  State.byteCut_cases (P := fun k t => t.env.writes = s.env.writes.drop (k + 1)) (by simp) (by simp) (by simp) (by simp) hk

theorem State.byteCut_clock (s : State) (c : Config) (ctl b : Byte) {k : Nat} (hk : k < 4) :
    s.env.clock ≤ (s.byteCut c ctl b k).env.clock := by
  refine State.byteCut_cases (P := fun _ t => s.env.clock ≤ t.env.clock) ?_ ?_ ?_ ?_ hk
  all_goals
    simp only [State.byteWrite3, State.byteWrite2, State.byteWrite1, State.byteWrite0, State.tWrite_env, State.delay_env,
      Env.tick_clock, Env.popWrite_clock]
    omega

/-- The events of the raw writes up to the one that fails. -/
theorem State.byteCut_events {s : State} {k : Nat} {a : WriteAnswer} {ws : List WriteAnswer} (hk : k < 4)
    (hw : s.env.writes = List.replicate k .ok ++ a :: ws) (ha : a.isOk = false) (c : Config) (backlight isData : Bool) (b : Byte) :
    (s.byteCut c (controlNibble c backlight isData) b k).events = s.events ++ failedTransferEvents c backlight isData b k := by
  have hok : WriteAnswer.ok.isOk = true := rfl
  match k, hk with
  | 0, _ | 1, _ | 2, _ | 3, _ =>
    simp [State.byteCut, State.byteWrite3, State.byteWrite2, State.byteWrite1, State.byteWrite0, failedTransferEvents,
      transferEvents, wireBytes, Env.nextWrite, hw, ha, hok, List.replicate]

/-- The outputs after the raw writes up to the one that fails. -/
theorem State.byteCut_expander {s : State} {k : Nat} {a : WriteAnswer} {ws : List WriteAnswer} (hk : k < 4)
    (hw : s.env.writes = List.replicate k .ok ++ a :: ws) (c : Config) (backlight isData : Bool) (b : Byte) :
    (s.byteCut c (controlNibble c backlight isData) b k).expander =
      outputsAt s.expander (wireBytes c backlight isData b) k a := by
  match k, hk with
  | 0, _ | 1, _ | 2, _ | 3, _ =>
    simp [State.byteCut, State.byteWrite3, State.byteWrite2, State.byteWrite1, State.byteWrite0, outputsAt, outputsAfter,
      wireBytes, Env.nextWrite, hw, List.replicate]

/-! ### The byte write that fails as a whole -/

theorem State.byteStart_expander (s : State) (r : Nat) : (s.byteStart r).expander = s.expander := by
  simp only [State.byteStart, State.waitReady]
  split <;> rfl

/-- A byte write whose raw write with index `k` fails, as one operation: it is cut there and aborts (R125). -/
def State.byteFailed (r : Nat) (isData : Bool) (b : Byte) (k : Nat) (s : State) : State :=
  ((s.byteStart r).byteCut s.cfg (s.byteControl isData) b k).byteAbort r

theorem State.unchanged_byteAbort (s : State) (r : Nat) : Unchanged s (s.byteAbort r) :=
  ⟨rfl, rfl, rfl, rfl, rfl, rfl, rfl, rfl, rfl⟩

theorem State.unchanged_byteFailed (s : State) (r : Nat) (isData : Bool) (b : Byte) {k : Nat} (hk : k < 4) :
    Unchanged s (s.byteFailed r isData b k) :=
  (s.unchanged_byteStart r).trans ((State.unchanged_byteCut _ _ _ _ hk).trans (State.unchanged_byteAbort _ _))

theorem State.byteFailed_ctx (s : State) (r : Nat) (isData : Bool) (b : Byte) {k : Nat} (hk : k < 4) :
    (s.byteFailed r isData b k).ctx = { s.ctx with nextReadyTick := 0, lockOwner := none } := by
  simp [State.byteFailed, State.byteAbort, State.byteCut_ctx _ _ _ _ hk]

theorem State.byteFailed_writes (s : State) (r : Nat) (isData : Bool) (b : Byte) {k : Nat} (hk : k < 4) :
    (s.byteFailed r isData b k).env.writes = s.env.writes.drop (k + 1) := by
  simp [State.byteFailed, State.byteAbort, State.byteCut_writes _ _ _ _ hk]

theorem State.byteFailed_events {s : State} {k : Nat} {a : WriteAnswer} {ws : List WriteAnswer} (hk : k < 4)
    (hw : s.env.writes = List.replicate k .ok ++ a :: ws) (ha : a.isOk = false) (r : Nat) (isData : Bool) (b : Byte) :
    (s.byteFailed r isData b k).events = s.events ++ [Event.acquire r, Event.now (s.byteNow r)] ++ waitEvents s (s.byteNow r) ++
      failedTransferEvents s.cfg s.ctx.backlightOn isData b k ++ [Event.release r] := by
  rw [State.byteFailed, State.byteAbort, State.withOwner_events, State.port_events, State.withTick_events, State.byteControl,
    State.byteCut_events (s := s.byteStart r) hk (by simpa using hw) ha, State.byteStart_events]

theorem State.byteFailed_expander {s : State} {k : Nat} {a : WriteAnswer} {ws : List WriteAnswer} (hk : k < 4)
    (hw : s.env.writes = List.replicate k .ok ++ a :: ws) (r : Nat) (isData : Bool) (b : Byte) :
    (s.byteFailed r isData b k).expander =
      outputsAt s.expander (wireBytes s.cfg s.ctx.backlightOn isData b) k a := by
  rw [← s.byteStart_expander r]
  exact State.byteCut_expander (s := s.byteStart r) hk (by simpa using hw) s.cfg s.ctx.backlightOn isData b

theorem State.waitClock_le_byteFailed (s : State) (r : Nat) (isData : Bool) (b : Byte) {k : Nat} (hk : k < 4) :
    s.waitClock r ≤ (s.byteFailed r isData b k).env.clock := by
  have hstart := s.byteStart_clock r
  have hcut := (s.byteStart r).byteCut_clock s.cfg (s.byteControl isData) b hk
  simp only [State.byteFailed, State.byteAbort, State.withOwner_env, State.port_env, State.withTick_env, Env.tick_clock]
  omega

/-! ### A command that is one byte write, run alone -/

@[simp] theorem State.arrived_expander (s : State) (i : Instr) : (s.arrived i).expander = s.expander := by
  unfold State.arrived; split <;> rfl

/-- Run alone, a command that is one byte write arrives, writes as far as the raw write that fails, and returns. -/
theorem State.byteCommand_fail {s : State} {k : Nat} {a : WriteAnswer} {ws : List WriteAnswer} (h : s.readyAlone = true)
    (hk : k < 4) (hw : s.env.writes = List.replicate k .ok ++ a :: ws) (ha : a.isOk = false) {i : Instr}
    (hi : i.lifecycle = false) (isData : Bool) (b : Byte) (d : Tick) :
    s.byteCommand i isData b d = .next (((s.arrived i).byteFailed s.cur isData b k).returned s.cur i .transferFailure) := by
  obtain ⟨hs, -, hopen, hexists, howner⟩ := s.readyAlone_iff.mp h
  obtain ⟨hr, -, -, hq⟩ := s.quietStart_iff.mp hs
  obtain ⟨hcfg, -, hreq, -⟩ := s.unchanged_arrived i
  have habort : abortLines i = [.ret .transferFailure] := by
    unfold abortLines
    split
    · cases hi
    · rfl
  refine (State.readyCommand_of_readyAlone h i _).trans (congrArg Host.Outcome.next ?_)
  obtain ⟨n, hn⟩ : ∃ n, s.budget = (n + 1) + 2 * k + 7 :=
    ⟨16 * s.cfg.stringCap + 88 - 2 * k, by simp only [State.budget]; omega⟩
  rw [hn, State.arrive_eq_arrived, ← hcfg,
    State.run_byte_fail (by rwa [hreq]) (by simpa using hexists) (by simpa using howner) (by simpa using hopen) hk
      (by simpa using hw) ha, habort]
  exact State.run_ret_of_idle hr hq ((s.unchanged_arrived i).trans (State.unchanged_byteFailed _ _ _ _ hk))

/-- Run alone, a command that is one byte write aborts at the raw write that fails (R125). -/
theorem State.byteCommand_aborts {s : State} {k : Nat} {a : WriteAnswer} {ws : List WriteAnswer} (h : s.readyAlone = true)
    (hk : k < 4) (hw : s.env.writes = List.replicate k .ok ++ a :: ws) (ha : a.isOk = false) {i : Instr}
    (hi : i.lifecycle = false) (isData : Bool) (b : Byte) (d : Tick) :
    ∃ t, s.byteCommand i isData b d = .next t ∧ ByteFailed s t i isData b k a := by
  obtain ⟨-, -, -, -, howner⟩ := s.readyAlone_iff.mp h
  obtain ⟨hcfg, -⟩ := s.unchanged_arrived i
  have hfailed := (s.unchanged_arrived i).trans ((s.arrived i).unchanged_byteFailed s.cur isData b hk)
  have hwait : waitFor (s.arrived i) = waitFor s := waitFor_congr hcfg (s.arrived_ctx i)
  have hw' : (s.arrived i).env.writes = List.replicate k .ok ++ a :: ws := (s.arrived_writes i).trans hw
  refine ⟨_, State.byteCommand_fail h hk hw ha hi isData b d, (s.arrived i).waitClock s.cur,
    (s.arrived_clock i).trans (State.clock_le_waitClock _ _),
    (State.waitClock_le_byteFailed _ _ _ _ hk).trans (State.returned_clock _ _ _ _), ?_, ?_, ?_, ?_,
    hfailed.trans (State.unchanged_returned _ _ _ _)⟩
  · simp [State.byteFailed_ctx _ _ _ _ hk, howner]
  · rw [State.returned_events hfailed.1, State.byteFailed_events hk hw' ha, State.arrived_events, waitEvents, hwait, hcfg,
      State.arrived_ctx]
    rfl
  · rw [State.returned_expander, State.byteFailed_expander hk hw', hcfg, State.arrived_ctx,
      State.arrived_expander]
  · rw [State.returned_writes, State.byteFailed_writes _ _ _ _ hk, State.arrived_writes]

/-- An instruction that is one byte write sends its byte or aborts. -/
theorem sendsByte_of_byteCommand {s : State} (h : s.readyAlone = true) {i : Instr} {isData : Bool} {b : Byte} {d : Tick}
    (hi : i.lifecycle = false) (hx : exec i s = s.byteCommand i isData b d) : SendsByte s i isData b d := by
  rw [SendsByte, hx]
  exact ⟨fun _ hw => State.byteCommand_sends h hw i isData b d,
    fun _ _ _ hk hw ha => State.byteCommand_aborts h hk hw ha hi isData b d⟩

/-! ### The command bytes (R74, R80) -/

theorem functionSetByte_emitted (c : Config) : functionSetByte c false true false = c.cmdFunctionSet ||| c.fs2Line := by
  simp [functionSetByte, flag]

/-- Settles O23: each of them is one byte write, which sends its byte or aborts. -/
theorem commandBytesAreSent : Obligations.CommandBytesAreSent := by
  intro s h
  refine ⟨?kClear, fun x => ?kHome, fun i sh => ?kEntryModeSet, fun d c b => ?kDisplayControl, fun t r x => ?kShift,
    fun x => ?kFunctionSet, fun a => ?kSetDdramAddr⟩
  case kFunctionSet =>
    rw [← functionSetByte_emitted]
    exact sendsByte_of_byteCommand h rfl rfl
  all_goals exact sendsByte_of_byteCommand h rfl rfl

end Sys2Proof.Machine
end

section
/-! PROOF. The reset sequence (spec/40_reset_sequencer.md): what the observer of spec/41_encoder.md R127 reads off its wire bytes. -/

namespace Sys2Proof.Machine

/-- A legal wire byte read back: its value nibble, its enable line and its register select (R71). -/
theorem lines_of_wireByteOf {c : Config} (h : c.legalLines = true) (n : Nibble) (backlight enable rs : Bool) :
    upperNibble (wireByteOf c n backlight enable rs) = n ∧ enableLine c (wireByteOf c n backlight enable rs) = enable ∧
      registerSelect c (wireByteOf c n backlight enable rs) = rs := by
  have hword := decode_encode_wireByte h n backlight enable rs
  rw [encode_wireByte, decode, decodeWire] at hword
  split at hword
  · cases hword
  · simp only [Except.ok.injEq, Instr.wireByte.injEq] at hword
    obtain ⟨hvalue, -, hen, hrs⟩ := hword
    exact ⟨hvalue, hen, hrs⟩

/-- The two wire bytes of each nibble of a list, with the same backlight and register select (R122). -/
def nibbleTransfers (c : Config) (backlight isData : Bool) (ns : List Nibble) : List Byte :=
  ns.flatMap fun n => [wireByteOf c n backlight true isData, wireByteOf c n backlight false isData]

/-- A wire byte with the enable line clear starts no latch. -/
theorem latches_cons_of_enable_clear {c : Config} {v : Byte} (h : enableLine c v = false) (ws : List Byte) :
    latches c (v :: ws) = latches c ws := by
  cases ws with
  | nil => rfl
  | cons w ws => simp [latches, h]

/-- Each nibble transferred is latched once (R127). -/
theorem latches_nibbleTransfers {c : Config} (h : c.legalLines = true) (backlight isData : Bool) (ns : List Nibble) :
    latches c (nibbleTransfers c backlight isData ns) = ns.map fun n => (n, isData) := by
  induction ns with
  | nil => rfl
  | cons n ns ih =>
    obtain ⟨-, hset, -⟩ := lines_of_wireByteOf h n backlight true isData
    obtain ⟨hvalue, hclear, hrs⟩ := lines_of_wireByteOf h n backlight false isData
    calc latches c (nibbleTransfers c backlight isData (n :: ns))
        = (n, isData) :: latches c (wireByteOf c n backlight false isData :: nibbleTransfers c backlight isData ns) := by
          simp [nibbleTransfers, latches, hset, hclear, hvalue, hrs]
      _ = (n, isData) :: ns.map fun n => (n, isData) := by rw [latches_cons_of_enable_clear hclear, ih]

/-- The two halves of a byte, the upper first. -/
def halves (b : Byte) : List Nibble := [upperNibble b, lowerNibble b]

/-- The wire bytes of a byte write are the transfers of its two halves (R73). -/
theorem wireBytes_eq_nibbleTransfers (c : Config) (backlight isData : Bool) (b : Byte) :
    wireBytes c backlight isData b = nibbleTransfers c backlight isData (halves b) := by
  simp [wireBytes, nibbleTransfers, halves, wireByteOf]

theorem nibbleBytes_eq_nibbleTransfers (c : Config) (backlight : Bool) (n : Nibble) :
    nibbleBytes c backlight n = nibbleTransfers c backlight false [n] := by
  simp [nibbleBytes, nibbleTransfers, wireByteOf]

/-- The four command bytes of steps S5 to S8 (R101, R105). -/
def resetCommands (c : Config) : List Byte :=
  [c.cmdFunctionSet ||| c.fs2Line, c.cmdDisplayControl ||| c.dcDisplay, c.cmdClear, c.cmdEntryMode ||| c.emIncrement]

/-- The reset sequence transfers the nibbles 3, 3, 2 and the halves of its command bytes (R105). -/
theorem resetWires_eq_nibbleTransfers (c : Config) (backlight : Bool) :
    resetWires c backlight = nibbleTransfers c backlight false ([3, 3, 2] ++ (resetCommands c).flatMap halves) := by
  simp only [resetWires, wireBytes_eq_nibbleTransfers, nibbleBytes_eq_nibbleTransfers]
  rfl

theorem upperNibble_append_lowerNibble (b : Byte) : upperNibble b ++ lowerNibble b = b := by
  revert b
  decide

/-- The halves of bytes, latched with one register select, pair into the bytes (R127). -/
theorem assembled_halves (isData : Bool) (bs : List Byte) :
    assembled ((bs.flatMap halves).map fun n => (n, isData)) = bs.map fun b => (b, isData) := by
  induction bs with
  | nil => rfl
  | cons b bs ih =>
    rw [List.flatMap_cons, List.map_append, List.map_cons, ← ih]
    simp [halves, assembled, upperNibble_append_lowerNibble]

/-- Settles O35: every nibble transferred is latched, so the latches are 3, 3, 2 and the halves of the command bytes. -/
theorem observerSeesTheResetSequence : Obligations.ObserverSeesTheResetSequence := by
  intro c backlight hlegal
  rw [resetWires_eq_nibbleTransfers, latches_nibbleTransfers (legalLines_of_legal hlegal), List.map_append]
  exact ⟨rfl, assembled_halves false (resetCommands c)⟩

end Sys2Proof.Machine
end

section
/-! PROOF. A raw write of the reset sequence fails (spec/40_reset_sequencer.md R104): what each stretch of its lines sends, whole or as
far as the failed raw write; the stretches put together; and INIT around them (spec/43_command_api.md R161). -/

namespace Sys2Proof.Machine

/-! ### The port events of a stretch of lines -/

theorem wiresOf_append (es fs : List Event) : wiresOf (es ++ fs) = wiresOf es ++ wiresOf fs := List.filterMap_append

theorem acquiresOf_append (es fs : List Event) : acquiresOf (es ++ fs) = acquiresOf es ++ acquiresOf fs :=
  List.filterMap_append

theorem releasesOf_append (es fs : List Event) : releasesOf (es ++ fs) = releasesOf es ++ releasesOf fs :=
  List.filterMap_append

/-- The raw writes among the events are `tried`, of which `written` answered `ok`; the lock is acquired and released by the
requesters `acquired` and `released`. -/
structure Traffic (es : List Event) (tried written : List Byte) (acquired released : List Nat) : Prop where
  tried : attemptsOf es = tried
  written : wiresOf es = written
  acquired : acquiresOf es = acquired
  released : releasesOf es = released

theorem Traffic.append {es es' : List Event} {tried written tried' written' : List Byte} {acq rel acq' rel' : List Nat}
    (h : Traffic es tried written acq rel) (h' : Traffic es' tried' written' acq' rel') :
    Traffic (es ++ es') (tried ++ tried') (written ++ written') (acq ++ acq') (rel ++ rel') where
  tried := by rw [attemptsOf_append, h.tried, h'.tried]
  written := by rw [wiresOf_append, h.written, h'.written]
  acquired := by rw [acquiresOf_append, h.acquired, h'.acquired]
  released := by rw [releasesOf_append, h.released, h'.released]

theorem traffic_waitEvents (s : State) (now : Tick) : Traffic (waitEvents s now) [] [] [] [] := by
  unfold waitEvents
  split <;> exact ⟨rfl, rfl, rfl, rfl⟩

/-- Whatever a byte write sends after WAIT, it acquires the lock before and releases it after (R123, R125). -/
theorem Traffic.held {es tail : List Event} {tried written : List Byte} {r : Nat} (h : Traffic es tried written [] [])
    (htail : Traffic tail [] [] [] [r]) (s : State) (now : Tick) :
    Traffic ([.acquire r, .now now] ++ waitEvents s now ++ es ++ tail) tried written [r] [r] := by
  have hstart : Traffic [.acquire r, .now now] [] [] [r] [] := ⟨rfl, rfl, rfl, rfl⟩
  simpa using ((hstart.append (traffic_waitEvents s now)).append h).append htail

theorem traffic_transferEvents (c : Config) (backlight isData : Bool) (b : Byte) :
    Traffic (transferEvents c backlight isData b) (wireBytes c backlight isData b) (wireBytes c backlight isData b) [] [] :=
  ⟨rfl, rfl, rfl, rfl⟩

theorem traffic_failedTransferEvents (c : Config) (backlight isData : Bool) (b : Byte) {k : Nat} (hk : k < 4) :
    Traffic (failedTransferEvents c backlight isData b k) ((wireBytes c backlight isData b).take (k + 1))
      ((wireBytes c backlight isData b).take k) [] [] := by
  match k, hk with
  | 0, _ | 1, _ | 2, _ | 3, _ => exact ⟨rfl, rfl, rfl, rfl⟩

/-! ### What a stretch of lines leaves -/

/-- From `s` to `u` the raw writes `tried` are attempted and `written` of them answer `ok`, every lock acquired is released, and of the
context only the tick moves. -/
structure Transfers (s u : State) (tried written : List Byte) : Prop where
  frame : Unchanged s u
  ctx : ∃ tick, u.ctx = { s.ctx with nextReadyTick := tick }
  events : ∃ es owners, u.events = s.events ++ es ∧ Traffic es tried written owners owners

theorem Transfers.trans {s t u : State} {tried written tried' written' : List Byte} (h : Transfers s t tried written)
    (h' : Transfers t u tried' written') : Transfers s u (tried ++ tried') (written ++ written') := by
  obtain ⟨hframe, ⟨tick, hctx⟩, es, owners, hes, htraffic⟩ := h
  obtain ⟨hframe', ⟨tick', hctx'⟩, es', owners', hes', htraffic'⟩ := h'
  refine ⟨hframe.trans hframe', ⟨tick', by rw [hctx', hctx]⟩, es ++ es', owners ++ owners', ?_, htraffic.append htraffic'⟩
  rw [hes', hes, List.append_assoc]

/-- Requester `r` may send under configuration `c` with the given backlight: it exists, the transport is open, the lock free. -/
structure Sendable (c : Config) (backlight : Bool) (r : Nat) (s : State) : Prop where
  requester : r < s.requesters.length
  cfg : s.cfg = c
  backlight : s.ctx.backlightOn = backlight
  opened : s.ctx.transportOpen = true
  locked : s.ctx.lockExists = true
  free : s.ctx.lockOwner = none

theorem Sendable.transfers {c : Config} {backlight : Bool} {r : Nat} {s u : State} {tried written : List Byte}
    (h : Sendable c backlight r s) (ht : Transfers s u tried written) : Sendable c backlight r u := by
  obtain ⟨⟨hcfg, -, hreq, -⟩, ⟨tick, hctx⟩, -⟩ := ht
  exact ⟨hreq ▸ h.requester, hcfg.trans h.cfg, by rw [hctx, h.backlight], by rw [hctx, h.opened], by rw [hctx, h.locked],
    by rw [hctx, h.free]⟩

/-- `m` lines of command `i` of requester `r` lead from `s` at the lines `ls` to `u` at the lines `ls'`, with the same control nibble. -/
def RunsTo (m r : Nat) (i : Instr) (ctl : Byte) (s : State) (ls : List Line) (u : State) (ls' : List Line) : Prop :=
  ∀ t t2, ∃ t' t2', ∀ n, State.runLines (n + m) r (s.withSeq r (some ⟨i, ls, ctl, t, t2⟩)) =
    State.runLines n r (u.withSeq r (some ⟨i, ls', ctl, t', t2'⟩))

theorem RunsTo.trans {m m' r : Nat} {i : Instr} {ctl : Byte} {s u v : State} {ls ls' ls'' : List Line}
    (h : RunsTo m r i ctl s ls u ls') (h' : RunsTo m' r i ctl u ls' v ls'') : RunsTo (m + m') r i ctl s ls v ls'' := by
  intro t t2
  obtain ⟨t', t2', hrun⟩ := h t t2
  obtain ⟨t'', t2'', hrun'⟩ := h' t' t2'
  refine ⟨t'', t2'', fun n => ?_⟩
  rw [Nat.add_comm m m', ← Nat.add_assoc, hrun, hrun']

/-- When every raw write answers `ok`, the lines `ls` send the wire bytes `ws`, and the run stands after them. -/
def SendsAll (c : Config) (backlight : Bool) (ls : List Line) (ws : List Byte) : Prop :=
  ∀ (s : State) (r : Nat) (i : Instr) (l : List WriteAnswer), Sendable c backlight r s →
    s.env.writes = List.replicate ws.length .ok ++ l →
      ∃ u, Transfers s u ws ws ∧ u.expander = ws.getLast?.getD s.expander ∧ u.env.writes = l ∧
        ∀ rest, RunsTo ls.length r i (controlNibble c backlight false) s (ls ++ rest) u rest

/-- When the raw write with index `k` fails, the lines `ls` send the wire bytes `ws` as far as it, and the run stands at the command's
unwinding, after no more lines than there are. -/
def SendsUntilFail (c : Config) (backlight : Bool) (ls : List Line) (ws : List Byte) : Prop :=
  ∀ (s : State) (r : Nat) (i : Instr) (k : Nat) (a : WriteAnswer) (l : List WriteAnswer), Sendable c backlight r s →
    k < ws.length → s.env.writes = List.replicate k .ok ++ a :: l → a.isOk = false →
      ∃ u, Transfers s u (ws.take (k + 1)) (ws.take k) ∧ u.expander = outputsAt s.expander ws k a ∧
        ∀ rest, ∃ m ≤ ls.length, RunsTo m r i (controlNibble c backlight false) s (ls ++ rest) u (abortLines i)

/-- The lines `ls` send the wire bytes `ws`, all of them or as far as the first that fails. -/
structure Sends (c : Config) (backlight : Bool) (ls : List Line) (ws : List Byte) : Prop where
  all : SendsAll c backlight ls ws
  aborts : SendsUntilFail c backlight ls ws

/-! ### Stretches put together -/

theorem outputsAt_append_left {xs : List Byte} {k : Nat} (hk : k < xs.length) (ys : List Byte) (old : Byte) (a : WriteAnswer) :
    outputsAt old (xs ++ ys) k a = outputsAt old xs k a := by
  rw [outputsAt, List.take_append_of_le_length hk.le, List.getElem?_append_left hk, outputsAt]

/-- A failed raw write of the second stretch finds the last wire byte of the first on the outputs. -/
theorem outputsAt_append_right (xs ys : List Byte) (k : Nat) (old : Byte) (a : WriteAnswer) :
    outputsAt old (xs ++ ys) (xs.length + k) a = outputsAt (xs.getLast?.getD old) ys k a := by
  rw [outputsAt, List.take_length_add_append, List.getLast?_append, Option.getD_or,
    List.getElem?_append_right (Nat.le_add_right _ _), Nat.add_sub_cancel_left, outputsAt]

theorem SendsAll.append {c : Config} {backlight : Bool} {ls ls' : List Line} {ws ws' : List Byte}
    (h : SendsAll c backlight ls ws) (h' : SendsAll c backlight ls' ws') : SendsAll c backlight (ls ++ ls') (ws ++ ws') := by
  intro s r i l hs hw
  rw [List.length_append, List.replicate_add, List.append_assoc] at hw
  obtain ⟨t, ht, hout, hwt, hrun⟩ := h s r i _ hs hw
  obtain ⟨u, hu, hout', hwu, hrun'⟩ := h' t r i l (hs.transfers ht) hwt
  refine ⟨u, ht.trans hu, ?_, hwu, fun rest => ?_⟩
  · rw [hout', hout, List.getLast?_append, Option.getD_or]
  · rw [List.length_append, List.append_assoc]
    exact (hrun _).trans (hrun' rest)

theorem SendsUntilFail.append {c : Config} {backlight : Bool} {ls ls' : List Line} {ws ws' : List Byte}
    (h : Sends c backlight ls ws) (h' : SendsUntilFail c backlight ls' ws') : SendsUntilFail c backlight (ls ++ ls') (ws ++ ws') := by
  intro s r i k a l hs hk hw ha
  by_cases hfirst : k < ws.length
  case pos =>
    obtain ⟨u, hu, hout, hrun⟩ := h.aborts s r i k a l hs hfirst hw ha
    refine ⟨u, ?_, ?_, fun rest => ?_⟩
    · rwa [List.take_append_of_le_length hfirst, List.take_append_of_le_length hfirst.le]
    · rw [hout, outputsAt_append_left hfirst]
    · obtain ⟨m, hm, hrun⟩ := hrun (ls' ++ rest)
      rw [List.length_append, List.append_assoc]
      exact ⟨m, by omega, hrun⟩
  case neg =>
    obtain ⟨j, rfl⟩ := Nat.exists_eq_add_of_le (Nat.le_of_not_lt hfirst)
    rw [List.length_append] at hk
    rw [List.replicate_add, List.append_assoc] at hw
    obtain ⟨t, ht, hout, hwt, hrun⟩ := h.all s r i _ hs hw
    obtain ⟨u, hu, hout', hrun'⟩ := h' t r i j a l (hs.transfers ht) (by omega) hwt ha
    refine ⟨u, ?_, ?_, fun rest => ?_⟩
    · rw [Nat.add_assoc, List.take_length_add_append, List.take_length_add_append]
      exact ht.trans hu
    · rw [hout', hout, outputsAt_append_right]
    · obtain ⟨m, hm, hrun'⟩ := hrun' rest
      rw [List.length_append, List.append_assoc]
      exact ⟨ls.length + m, by omega, (hrun _).trans hrun'⟩

theorem Sends.append {c : Config} {backlight : Bool} {ls ls' : List Line} {ws ws' : List Byte}
    (h : Sends c backlight ls ws) (h' : Sends c backlight ls' ws') : Sends c backlight (ls ++ ls') (ws ++ ws') :=
  ⟨h.all.append h'.all, .append h h'.aborts⟩

/-! ### The stretches of RESETSEQ -/

theorem State.transfers_delay (s : State) (d : Tick) : Transfers s (s.delay d) [] [] :=
  ⟨s.unchanged_port _ _, ⟨s.ctx.nextReadyTick, rfl⟩, [.delay d], [], s.delay_events d, rfl, rfl, rfl, rfl⟩

theorem sends_delay (c : Config) (backlight : Bool) (d : Tick) : Sends c backlight [.delay d] [] where
  all s r i l hs hw := by
    refine ⟨s.delay d, s.transfers_delay d, rfl, hw, fun rest t t2 => ⟨t, t2, fun n => ?_⟩⟩
    exact State.run_delay hs.requester
  aborts _ _ _ _ _ _ _ hk := absurd hk (Nat.not_lt_zero _)

/-- A raw write leaves the context alone. -/
theorem State.transfers_tWrite (s : State) (v : Byte) :
    Transfers s (s.tWrite v) [v] (if s.env.nextWrite.isOk then [v] else []) := by
  refine ⟨s.unchanged_tWrite v, ⟨s.ctx.nextReadyTick, rfl⟩, [.tWrite v s.env.nextWrite.isOk], [], s.tWrite_events v, rfl, ?_,
    rfl, rfl⟩
  cases s.env.nextWrite.isOk <;> rfl

/-- A bare raw write of a nibble holds no lock, and its failure has nothing to undo (R104). -/
theorem sends_nibbleWrite (c : Config) (backlight : Bool) (n : Nibble) (enable : Bool) :
    Sends c backlight [.nibbleWrite n enable false] [wireByteOf c n backlight enable false] where
  all s r i l hs hw := by
    have hnext : s.env.nextWrite = .ok := Env.nextWrite_cons hw
    have ht := s.transfers_tWrite (wireByteOf c n backlight enable false)
    rw [hnext] at ht
    refine ⟨_, ht, ?_, ?_, fun rest t t2 => ⟨t, t2, fun m => ?_⟩⟩
    · rw [State.tWrite_expander, hnext]
      rfl
    · simp [hw]
    · refine (State.run_write hs.requester hs.opened).trans ?_
      rw [hnext, hs.cfg]
      rfl
  aborts s r i k a l hs hk hw ha := by
    obtain rfl : k = 0 := Nat.lt_one_iff.mp hk
    have hnext : s.env.nextWrite = a := Env.nextWrite_cons hw
    have ht := s.transfers_tWrite (wireByteOf c n backlight enable false)
    rw [hnext, ha] at ht
    refine ⟨_, ht, ?_, fun rest => ⟨1, le_rfl, fun t t2 => ⟨t, t2, fun m => ?_⟩⟩⟩
    · rw [State.tWrite_expander, hnext]
      rfl
    · refine (State.run_write hs.requester hs.opened).trans ?_
      rw [hnext, hs.cfg, ha]
      rfl

/-- A bare nibble with the delays after its two raw writes (R101 steps S2 to S4). -/
theorem sends_bareNibbleLines (c : Config) (backlight : Bool) (n : Nibble) (after : Tick) :
    Sends c backlight (bareNibbleLines c n after) (nibbleBytes c backlight n) := by
  rw [nibbleBytes_eq_nibbleTransfers]
  exact (((sends_nibbleWrite c backlight n true).append (sends_delay c backlight c.enablePulse)).append
    (sends_nibbleWrite c backlight n false)).append (sends_delay c backlight after)

/-- A byte write in which nothing fails, started with the lock free (R123). -/
theorem State.transfers_byteDone {s : State} {ws : List WriteAnswer} (hfree : s.ctx.lockOwner = none)
    (hw : s.env.writes = .ok :: .ok :: .ok :: .ok :: ws) (r : Nat) (isData : Bool) (b : Byte) (d : Tick) :
    Transfers s (s.byteDone r isData b d) (wireBytes s.cfg s.ctx.backlightOn isData b)
      (wireBytes s.cfg s.ctx.backlightOn isData b) where
  frame := s.unchanged_byteDone r isData b d
  ctx := ⟨_, by rw [State.byteDone_ctx, ← hfree]⟩
  events := by
    have hend : Traffic [.now (BitVec.ofNat 64 (s.doneClock r isData b)), .release r] [] [] [] [r] := ⟨rfl, rfl, rfl, rfl⟩
    refine ⟨_, _, ?_, (traffic_transferEvents s.cfg s.ctx.backlightOn isData b).held hend s (s.byteNow r)⟩
    rw [State.byteDone_events hw]
    simp only [List.append_assoc]

/-- A byte write whose raw write with index `k` fails, started with the lock free (R125). -/
theorem State.transfers_byteFailed {s : State} {k : Nat} {a : WriteAnswer} {ws : List WriteAnswer}
    (hfree : s.ctx.lockOwner = none) (hk : k < 4) (hw : s.env.writes = List.replicate k .ok ++ a :: ws) (ha : a.isOk = false)
    (r : Nat) (isData : Bool) (b : Byte) :
    Transfers s (s.byteFailed r isData b k) ((wireBytes s.cfg s.ctx.backlightOn isData b).take (k + 1))
      ((wireBytes s.cfg s.ctx.backlightOn isData b).take k) where
  frame := s.unchanged_byteFailed r isData b hk
  ctx := ⟨_, by rw [State.byteFailed_ctx _ _ _ _ hk, ← hfree]⟩
  events := by
    have hend : Traffic [.release r] [] [] [] [r] := ⟨rfl, rfl, rfl, rfl⟩
    refine ⟨_, _, ?_, (traffic_failedTransferEvents s.cfg s.ctx.backlightOn isData b hk).held hend s (s.byteNow r)⟩
    rw [State.byteFailed_events hk hw ha]
    simp only [List.append_assoc]

/-- A byte write with register select clear (R101 steps S5 to S8). -/
theorem sends_byteLines (c : Config) (backlight : Bool) (b : Byte) (d : Tick) :
    Sends c backlight (byteLines c false b d) (wireBytes c backlight false b) where
  all s r i l hs hw := by
    obtain ⟨hr, rfl, rfl, hopen, hlock, hfree⟩ := hs
    refine ⟨s.byteDone r false b d, State.transfers_byteDone hfree hw r false b d, State.byteDone_expander hw r false b d, ?_,
      fun rest t t2 => ⟨_, _, fun n => State.run_byte_ok hr hlock hfree hopen hw⟩⟩
    rw [State.byteDone_writes, hw]
    rfl
  aborts s r i k a l hs hk hw ha := by
    obtain ⟨hr, rfl, rfl, hopen, hlock, hfree⟩ := hs
    refine ⟨s.byteFailed r false b k, State.transfers_byteFailed hfree hk hw ha r false b,
      State.byteFailed_expander hk hw r false b, fun rest => ⟨2 * k + 7, ?_, fun t t2 =>
        ⟨_, _, fun n => State.run_byte_fail hr hlock hfree hopen hk hw ha n⟩⟩⟩
    have hk' : k < 4 := hk
    rw [show (byteLines s.cfg false b d).length = 14 from rfl]
    omega

theorem displayControlByte_on (c : Config) : displayControlByte c true false false = c.cmdDisplayControl ||| c.dcDisplay := by
  simp [displayControlByte, flag]

theorem entryModeByte_increment (c : Config) : entryModeByte c true false = c.cmdEntryMode ||| c.emIncrement := by
  simp [entryModeByte, flag]

/-- RESETSEQ after its control nibble is set sends its 22 wire bytes (R101, R105). -/
theorem sends_resetLines (c : Config) (backlight : Bool) :
    Sends c backlight (resetLines c).tail (resetWires c backlight) := by
  have hnibbles := (((sends_delay c backlight c.powerOnDelay).append (sends_bareNibbleLines c backlight 3 c.initDelay1)).append
    (sends_bareNibbleLines c backlight 3 c.initDelay2)).append (sends_bareNibbleLines c backlight 2 c.enableSettle)
  rw [resetWires, ← functionSetByte_emitted, ← displayControlByte_on, ← entryModeByte_increment]
  exact (((hnibbles.append (sends_byteLines c backlight _ c.delayFunctionSet)).append
    (sends_byteLines c backlight _ c.delayDisplayControl)).append (sends_byteLines c backlight _ c.delayClear)).append
    (sends_byteLines c backlight _ c.delayEntryMode)

/-! ### The lines of INIT around RESETSEQ (R161) -/

@[simp] theorem State.withEnv_events (s : State) (e : Env) : (s.withEnv e).events = s.events := rfl

theorem State.run_alloc {s : State} {r n : Nat} {i : Instr} {rest : List Line} {k : Byte} {t t2 : Tick}
    (hr : r < s.requesters.length) (hok : s.env.nextAlloc = true) :
    State.runLines (n + 1) r (s.withSeq r (some ⟨i, .alloc :: rest, k, t, t2⟩)) =
      State.runLines n r (s.alloc.withSeq r (some ⟨i, rest, k, t, t2⟩)) := by
  have halloc : ∀ x, (s.withSeq r x).alloc = s.alloc.withSeq r x := fun _ => rfl
  rw [State.runLines_at hr rfl]
  simp only [State.lineStep, halloc, State.withSeq_withSeq, State.withSeq_env, hok, if_true]

theorem State.run_fillDefaults {s : State} {r n : Nat} {i : Instr} {rest : List Line} {k : Byte} {t t2 : Tick}
    (hr : r < s.requesters.length) (address : Byte) (backlightOn : Bool) :
    State.runLines (n + 1) r (s.withSeq r (some ⟨i, .fillDefaults address backlightOn :: rest, k, t, t2⟩)) =
      State.runLines n r ((s.withDefaults address backlightOn).withSeq r (some ⟨i, rest, k, t, t2⟩)) := by
  rw [State.runLines_at hr rfl]
  simp only [State.lineStep, State.withDefaults_withSeq, State.withSeq_withSeq]

theorem State.run_openTransport {s : State} {r n : Nat} {i : Instr} {rest : List Line} {k : Byte} {t t2 : Tick}
    (hr : r < s.requesters.length) (hok : s.env.nextOpen = true) :
    State.runLines (n + 1) r (s.withSeq r (some ⟨i, .openTransport :: rest, k, t, t2⟩)) =
      State.runLines n r (((s.tOpen (s.req r).side).withTransport true).withSeq r (some ⟨i, rest, k, t, t2⟩)) := by
  have hopen : ∀ x side, (s.withSeq r x).tOpen side = (s.tOpen side).withSeq r x := fun _ _ => rfl
  rw [State.runLines_at hr rfl]
  simp only [State.lineStep, State.req_withSeq_same _ _ hr, hopen, State.withTransport_withSeq, State.withSeq_withSeq,
    State.withSeq_env, hok, if_true]

theorem State.run_createLock {s : State} {r n : Nat} {i : Instr} {rest : List Line} {k : Byte} {t t2 : Tick}
    (hr : r < s.requesters.length) (hok : s.env.nextCreate = true) :
    State.runLines (n + 1) r (s.withSeq r (some ⟨i, .createLock :: rest, k, t, t2⟩)) =
      State.runLines n r ((s.lCreate.withLock true).withSeq r (some ⟨i, rest, k, t, t2⟩)) := by
  have hcreate : ∀ x, (s.withSeq r x).lCreate = s.lCreate.withSeq r x := fun _ => rfl
  rw [State.runLines_at hr rfl]
  simp only [State.lineStep, hcreate, State.withLock_withSeq, State.withSeq_withSeq, State.withSeq_env, hok, if_true]

theorem State.run_control {s : State} {r n : Nat} {i : Instr} {rest : List Line} {k : Byte} {t t2 : Tick} {isData : Bool}
    (hr : r < s.requesters.length) :
    State.runLines (n + 1) r (s.withSeq r (some ⟨i, .control isData :: rest, k, t, t2⟩)) =
      State.runLines n r (s.withSeq r (some ⟨i, rest, controlNibble s.cfg s.ctx.backlightOn isData, t, t2⟩)) := by
  rw [State.runLines_at hr rfl]
  simp only [State.lineStep, State.withSeq_withSeq, State.withSeq_cfg, State.withSeq_ctx]

/-- INIT's arrival and lines I1 to I4 with every answer `ok`: the transport is open and the lock is free. -/
def State.initOpened (address : Byte) (backlightOn : Bool) (s : State) : State :=
  ((((((s.arrived (.init address backlightOn)).withLife .constructing).alloc.withDefaults address backlightOn).tOpen
    (s.req s.cur).side).withTransport true).lCreate).withLock true

theorem State.initOpened_ctx (s : State) (address : Byte) (backlightOn : Bool) :
    (s.initOpened address backlightOn).ctx =
      { life := .constructing, address := address, backlightOn := backlightOn, nextReadyTick := 0,
        transportOpen := true, lockExists := true, lockOwner := none } := by
  simp [State.initOpened, State.lCreate, State.tOpen, State.alloc]

theorem State.initOpened_kept (s : State) (address : Byte) (backlightOn : Bool) :
    (s.initOpened address backlightOn).cfg = s.cfg ∧ (s.initOpened address backlightOn).requesters = s.requesters ∧
      (s.initOpened address backlightOn).mem = s.mem ∧ (s.initOpened address backlightOn).expander = s.expander ∧
      (s.initOpened address backlightOn).env.writes = s.env.writes := by
  obtain ⟨hcfg, -, hreq, hmem, -⟩ := s.unchanged_arrived (.init address backlightOn)
  simp [State.initOpened, State.lCreate, State.tOpen, State.alloc, hcfg, hreq, hmem]

/-- After line I4 the requester may send. -/
theorem State.sendable_initOpened {s : State} (hr : s.cur < s.requesters.length) (address : Byte) (backlightOn : Bool) :
    Sendable s.cfg backlightOn s.cur (s.initOpened address backlightOn) := by
  obtain ⟨hcfg, hreq, -⟩ := s.initOpened_kept address backlightOn
  have hctx := s.initOpened_ctx address backlightOn
  exact ⟨by rwa [hreq], hcfg, by rw [hctx], by rw [hctx], by rw [hctx], by rw [hctx]⟩

/-- The allocator, the transport and the lock are going to answer INIT with `ok`. -/
structure AnswersInit (s : State) : Prop where
  alloc : s.env.allocs.head? = some true
  opens : s.env.opens.head? = some true
  creates : s.env.creates.head? = some true

theorem State.initOpened_events {s : State} (h : AnswersInit s) (address : Byte) (backlightOn : Bool) :
    (s.initOpened address backlightOn).events = s.events ++
      [.cmd s.cur (encode s.cfg (.init address backlightOn)).bits24 (s.req s.cur).side, .alloc true,
        .tOpen (busAddress address) s.cfg.i2cSpeed s.cfg.i2cTimeoutMs (s.req s.cur).side true, .lCreate true] := by
  obtain ⟨halloc, hopen, hcreate⟩ := h
  simp [State.initOpened, State.lCreate, State.tOpen, State.alloc, State.arrived, Instr.isHost, Env.nextAlloc, Env.nextOpen,
    Env.nextCreate, halloc, hopen, hcreate]

/-- INIT up to the control nibble of RESETSEQ, in one. -/
theorem State.run_initOpening {s : State} (hr : s.cur < s.requesters.length) (h : AnswersInit s) (address : Byte)
    (backlightOn : Bool) (n : Nat) :
    State.runLines (n + 5) s.cur ((s.arrive (.init address backlightOn) (initLines s.cfg address backlightOn)).withLife
        .constructing) =
      State.runLines n s.cur ((s.initOpened address backlightOn).withSeq s.cur (some ⟨.init address backlightOn,
        (resetLines s.cfg).tail ++ [.becomeReady], controlNibble s.cfg backlightOn false, 0, 0⟩)) := by
  obtain ⟨halloc, hopen, hcreate⟩ := h
  have hlines : initLines s.cfg address backlightOn = .alloc :: .fillDefaults address backlightOn :: .openTransport ::
      .createLock :: .control false :: ((resetLines s.cfg).tail ++ [.becomeReady]) := rfl
  rw [hlines, State.arrive_eq_arrived, State.withLife_withSeq,
    State.run_alloc (by exact hr) (by simp [State.arrived, Instr.isHost, Env.nextAlloc, halloc]),
    State.run_fillDefaults (by exact hr),
    State.run_openTransport (by exact hr) (by simp [State.arrived, State.alloc, Instr.isHost, Env.nextOpen, hopen]),
    State.run_createLock (by exact hr)
      (by simp [State.arrived, State.alloc, State.tOpen, Instr.isHost, Env.nextCreate, hcreate]),
    State.run_control (by exact hr)]
  rfl

/-- INIT's unwinding after RESETSEQ failed: "transport, then lock, then memory", and its status (R161 line I5, R224). -/
def State.unwound (r : Nat) (s : State) : State :=
  (((((s.port 0 .tClose).withTransport false).port 0 .lDestroy).withLock false).withCtx Context.absent).port 0
    (.status r (Status.initSequenceFailure.code s.cfg))

theorem State.unwound_events (s : State) (r : Nat) :
    (s.unwound r).events = s.events ++ [.tClose, .lDestroy, .status r (Status.initSequenceFailure.code s.cfg)] := by
  simp [State.unwound]

theorem State.unwound_kept (s : State) (r : Nat) :
    (s.unwound r).ctx = Context.absent ∧ (s.unwound r).requesters = s.requesters ∧ (s.unwound r).mem = s.mem ∧
      (s.unwound r).expander = s.expander := ⟨rfl, rfl, rfl, rfl⟩

/-- The end of a command whose requester was idle before it. -/
theorem State.finish_of_idle {s : State} {r : Nat} (hq : (s.req r).seq = none) (x : Option Progress) (p : Progress) (st : Status) :
    (s.withSeq r x).finish r p st = s.returned r p.cmd st := by
  unfold State.finish State.returned
  split
  · rw [State.port_withSeq, State.withSeq_withSeq]
    exact State.withSeq_self hq
  · rw [State.withSeq_withSeq]
    exact State.withSeq_self hq

/-- The unwinding of a requester that was idle before INIT, in one. -/
theorem State.run_unwound {s : State} {r n : Nat} {address : Byte} {backlightOn : Bool} {k : Byte} {t t2 : Tick}
    (hr : r < s.requesters.length) (hq : (s.req r).seq = none) :
    State.runLines (n + 3) r (s.withSeq r
        (some ⟨.init address backlightOn, abortLines (.init address backlightOn), k, t, t2⟩)) = s.unwound r := by
  rw [abortLines, State.runLines_at hr rfl]
  simp only [State.lineStep, State.port_withSeq, State.withTransport_withSeq, State.withSeq_withSeq]
  rw [State.runLines_at (by exact hr) rfl]
  simp only [State.lineStep, State.port_withSeq, State.withLock_withSeq, State.withSeq_withSeq]
  rw [State.runLines_at (by exact hr) rfl]
  simp only [State.lineStep, State.withCtx_withSeq]
  rw [State.finish_of_idle (by exact hq)]
  obtain ⟨-, hreq, -⟩ := s.unwound_kept r
  exact State.runLines_idle n ((congrArg Requester.seq (State.req_congr r hreq)).trans hq)

theorem State.absentAlone_iff (s : State) : s.absentAlone = true ↔ s.quietStart = true ∧ s.ctx.life = .absent := by
  simp [State.absentAlone]

theorem State.idle_of_absentAlone {s : State} (h : s.absentAlone = true) :
    s.cur < s.requesters.length ∧ (s.req s.cur).seq = none := by
  obtain ⟨hs, -⟩ := s.absentAlone_iff.mp h
  obtain ⟨hr, -, -, hq⟩ := s.quietStart_iff.mp hs
  exact ⟨hr, hq⟩

/-- INIT admitted alone runs from its arrival to its end. -/
theorem exec_init_of_absentAlone {s : State} (h : s.absentAlone = true) (address : Byte) (backlightOn : Bool) :
    exec (.init address backlightOn) s = .next (State.runLines s.budget s.cur
      ((s.arrive (.init address backlightOn) (initLines s.cfg address backlightOn)).withLife .constructing)) := by
  obtain ⟨hs, hlife⟩ := s.absentAlone_iff.mp h
  obtain ⟨hr, hlegal, ha, hq⟩ := s.quietStart_iff.mp hs
  have hadm : s.admission s.unlessAbsent = none := by simp [State.admission, State.unlessAbsent, hr, hlegal, hlife]
  show execInit address backlightOn s = _
  simp [execInit, State.runCommand, hq, hadm, ha]

/-- INIT run alone, whose raw write with index `k` fails: it opens, sends as far as that raw write, and unwinds (R104). -/
theorem exec_init_unwinds {s : State} {k : Nat} {a : WriteAnswer} {ws : List WriteAnswer} (h : s.absentAlone = true)
    (hanswers : AnswersInit s) (hk : k < 22) (hw : s.env.writes = List.replicate k .ok ++ a :: ws) (ha : a.isOk = false)
    (address : Byte) (backlightOn : Bool) :
    ∃ u, exec (.init address backlightOn) s = .next (u.unwound s.cur) ∧
      Transfers (s.initOpened address backlightOn) u ((resetWires s.cfg backlightOn).take (k + 1))
        ((resetWires s.cfg backlightOn).take k) ∧
      u.expander = outputsAt s.expander (resetWires s.cfg backlightOn) k a := by
  have hx := exec_init_of_absentAlone h address backlightOn
  obtain ⟨hr, hq⟩ := State.idle_of_absentAlone h
  obtain ⟨-, hreq, -, hexp, hwrites⟩ := s.initOpened_kept address backlightOn
  obtain ⟨u, ht, hout, hrun⟩ := (sends_resetLines s.cfg backlightOn).aborts (s.initOpened address backlightOn) s.cur
    (.init address backlightOn) k a ws (State.sendable_initOpened hr address backlightOn) hk (hwrites.trans hw) ha
  obtain ⟨-, -, hreq', -⟩ := ht.frame
  rw [hreq] at hreq'
  obtain ⟨m, hm, hrun⟩ := hrun [.becomeReady]
  obtain ⟨t, t2, hrun⟩ := hrun 0 0
  obtain ⟨n, hn⟩ : ∃ n, s.budget = n + 3 + m + 5 := by
    rw [show (resetLines s.cfg).tail.length = 69 from rfl] at hm
    exact ⟨s.budget - 3 - m - 5, by simp only [State.budget]; omega⟩
  refine ⟨u, ?_, ht, hexp ▸ hout⟩
  rw [hx, hn, State.run_initOpening hr hanswers, hrun, State.run_unwound (by rwa [hreq'])]
  exact (congrArg Requester.seq (State.req_congr s.cur hreq')).trans hq

/-- Settles O13: INIT opens, RESETSEQ sends as far as the failed raw write, whichever of its stretches holds it, and INIT unwinds. -/
theorem initUnwindsAFailedResetSequence : Obligations.InitUnwindsAFailedResetSequence := by
  intro s address backlightOn k a ws h halloc hopen hcreate hk hw ha
  have hanswers : AnswersInit s := ⟨halloc, hopen, hcreate⟩
  obtain ⟨u, hx, ⟨⟨hcfg, -, hreq, hmem, -⟩, -, es, owners, hes, htraffic⟩, hout⟩ :=
    exec_init_unwinds h hanswers hk hw ha address backlightOn
  obtain ⟨hcfg0, hreq0, hmem0, -⟩ := s.initOpened_kept address backlightOn
  obtain ⟨hctx', hreq', hmem', hout'⟩ := u.unwound_kept s.cur
  refine ⟨_, es, hx, ?_, ?_, htraffic.tried, htraffic.written, hout'.trans hout,
    htraffic.released.trans htraffic.acquired.symm, hreq'.trans (hreq.trans hreq0), hmem'.trans (hmem.trans hmem0)⟩
  · rw [hctx']
    exact ⟨rfl, rfl, rfl, rfl⟩
  · rw [State.unwound_events, hes, State.initOpened_events hanswers, hcfg, hcfg0]

end Sys2Proof.Machine
end

section
/-! PROOF. The encoder (spec/41_encoder.md): what a nibble transfer and a byte write do from wherever a command stands, that the
backlight flag is constant within a byte write, and what the four wire bytes of one show. -/

namespace Sys2Proof.Machine

/-! ### The backlight flag within a byte write (R22, R128) -/

/-- A command arrives without touching the backlight flag. -/
theorem Starts.backlightOn {i : Instr} {s start : State} (h : Starts i s start) : start.ctx.backlightOn = s.ctx.backlightOn := by
  have harrive : ∀ lines, (s.arrive i lines).ctx = s.ctx := fun lines => by
    obtain ⟨-, hctx, -⟩ := s.arrive_kept i lines
    exact hctx
  obtain ⟨-, -, -, -, ⟨a, b, -, -, rfl⟩ | ⟨-, -, rfl⟩ | ⟨-, -, rfl⟩⟩ := h
  · rw [State.withLife_ctx, harrive]
  · rw [harrive]
  · rw [harrive]

/-- A disciplined line of a command other than INIT and DEINIT leaves the backlight flag, unless the command is a SETBACKLIGHT that
holds the lock. -/
theorem lineCtx_backlightOn {i : Instr} {l : Line} {rest : List Line} {held : Bool} (hl : i.lifecycle = false)
    (hd : disciplined i held (l :: rest) = true) (hb : held = true → i.setsBacklight = false) (r : Nat) (p : Progress) (s : State) :
    (lineCtx r p l s).backlightOn = s.ctx.backlightOn := by
  cases l with
  | fillDefaults | openTransport | createLock | closeTransport | destroyLock | becomeReady | freeContext =>
    simp [disciplined, hl] at hd
  | storeBacklight e =>
    simp only [disciplined, Bool.and_eq_true] at hd
    obtain ⟨⟨hheld, hsets⟩, -⟩ := hd
    cases (hb hheld).symm.trans hsets
  | _ => rfl

/-- While a byte-writing command of the owner is in progress, no requester's line changes the backlight flag: a lifecycle command
would be the only one in progress, and a SETBACKLIGHT stores the flag only where it holds the lock itself. -/
theorem LockDiscipline.backlightOn_perform {s : State} {r owner : Nat} {i : Instr} (h : LockDiscipline s)
    (ho : s.ctx.lockOwner = some owner) (hi : s.inProgress owner = some i) (hl : i.lifecycle = false)
    (hb : i.setsBacklight = false) (hm : s.canMove r = true) : (s.perform r).ctx.backlightOn = s.ctx.backlightOn := by
  obtain ⟨p, l, rest, hp, hd, -, he⟩ := h.perform_eq hm
  have hcmd : owner = r → p.cmd = i := by
    rintro rfl
    exact Option.some.inj ((State.inProgress_of_seq hp).symm.trans hi)
  have hpl : p.cmd.lifecycle = false := by
    refine Bool.eq_false_iff.mpr fun hlife => ?_
    rw [hcmd (h.owner_of_lifecycle (State.inProgress_of_seq hp) hlife ho), hl] at hlife
    cases hlife
  rw [he, State.lineStep_ctx]
  refine lineCtx_backlightOn hpl hd (fun hheld => ?_) r _ s
  rw [hcmd (Option.some.inj (ho.symm.trans (of_decide_eq_true hheld)))]
  exact hb

/-- Settles O47: only a step that runs an instruction could change the flag; its line leaves it, and a command only arrives. -/
theorem backlightIsConstantWithinAByte : Obligations.BacklightIsConstantWithinAByte := by
  intro s t owner i h ho hi hl hb hstep
  rcases step_outside_or_exec hstep with ⟨-, hctx, -⟩ | ⟨u, j, ⟨-, hctx, -, -, -, hseq, -⟩, ha, hx⟩
  · rw [hctx]
  · rw [← hctx]
    rcases exec_line_next ha hx with ⟨hm, rfl⟩ | hst
    · have hi' : u.inProgress owner = some i := by rwa [State.inProgress, hseq]
      exact (h.congr hctx hseq).backlightOn_perform (hctx ▸ ho) hi' hl hb hm
    · exact hst.backlightOn

/-! ### A nibble transfer (R122) -/

/-- The raw write of a nibble with the enable bit set, the pulse, and the raw write with it cleared, as one operation. -/
def State.nibbleSent (n : Nibble) (ctl : Byte) (s : State) : State :=
  ((s.tWrite (nibbleWire s.cfg n ctl true)).delay s.cfg.enablePulse).tWrite (nibbleWire s.cfg n ctl false)

theorem State.unchanged_nibbleSent (s : State) (n : Nibble) (ctl : Byte) : Unchanged s (s.nibbleSent n ctl) :=
  (s.unchanged_tWrite _).trans (State.unchanged_delay_tWrite _ _ _)

theorem State.nibbleSent_ctx (s : State) (n : Nibble) (ctl : Byte) : (s.nibbleSent n ctl).ctx = s.ctx := by
  simp [State.nibbleSent]

theorem State.nibbleSent_events {s : State} {a : WriteAnswer} {ws : List WriteAnswer} (hw : s.env.writes = .ok :: a :: ws)
    (n : Nibble) (ctl : Byte) :
    (s.nibbleSent n ctl).events = s.events ++ [.tWrite (nibbleInPlace n ||| ctl ||| s.cfg.enBit) true,
      .delay s.cfg.enablePulse, .tWrite (nibbleInPlace n ||| ctl) a.isOk] := by
  rw [State.nibbleSent, State.tWrite_events, State.delay_events, State.tWrite_events_ok _ hw,
    Env.nextWrite_cons (a := a) (l := ws) (by simp [hw])]
  simp

theorem State.nibbleSent_expander {s : State} {ws : List WriteAnswer} (hw : s.env.writes = .ok :: .ok :: ws)
    (n : Nibble) (ctl : Byte) : (s.nibbleSent n ctl).expander = nibbleInPlace n ||| ctl := by
  rw [State.nibbleSent, State.tWrite_expander, Env.nextWrite_cons (a := .ok) (l := ws) (by simp [hw])]
  simp [outputsAfter]

/-- The three lines of a nibble transfer whose first raw write answers `ok`: where the command stands then hangs on the second. -/
theorem State.run_nibble {s : State} {r : Nat} {i : Instr} {rest : List Line} {k : Byte} {t t2 : Tick} {n : Nibble} {ib : Bool}
    (hp : (s.req r).seq = some ⟨i, .nibbleWrite n true ib :: .delay s.cfg.enablePulse :: .nibbleWrite n false ib :: rest, k, t, t2⟩)
    (ho : s.ctx.transportOpen = true) {a : WriteAnswer} {ws : List WriteAnswer} (hw : s.env.writes = .ok :: a :: ws) :
    State.runLines 3 r s = (s.nibbleSent n k).withSeq r
      (some (if a.isOk then ⟨i, rest, k, t, t2⟩ else (Progress.mk i rest k t t2).raiseTransfer ib)) := by
  have hr := State.lt_of_seq hp
  conv_lhs => rw [← State.withSeq_self hp]
  rw [State.run_write hr ho, Env.nextWrite_cons hw]
  simp only [WriteAnswer.isOk, if_true]
  rw [State.run_delay (by exact hr), State.run_write (by exact hr) (by exact ho),
    Env.nextWrite_cons (a := a) (l := ws) (by simp [hw])]
  rfl

/-- A nibble transfer whose first raw write fails ends there. -/
theorem State.run_nibble_fail {s : State} {r : Nat} {i : Instr} {rest : List Line} {k : Byte} {t t2 : Tick} {n : Nibble} {ib : Bool}
    (hp : (s.req r).seq = some ⟨i, .nibbleWrite n true ib :: rest, k, t, t2⟩) (ho : s.ctx.transportOpen = true)
    {a : WriteAnswer} {ws : List WriteAnswer} (hw : s.env.writes = a :: ws) (ha : a.isOk = false) :
    State.runLines 1 r s = (s.tWrite (nibbleWire s.cfg n k true)).withSeq r
      (some ((Progress.mk i rest k t t2).raiseTransfer ib)) := by
  conv_lhs => rw [← State.withSeq_self hp]
  rw [State.run_write (State.lt_of_seq hp) ho, Env.nextWrite_cons hw, ha]
  rfl

/-- The sequencer position set last is where the requester stands. -/
theorem State.seq_withSeq_of_unchanged {s u : State} {r : Nat} (hr : r < s.requesters.length) (hu : Unchanged s u)
    (x : Option Progress) : ((u.withSeq r x).req r).seq = x := by
  obtain ⟨-, -, hreq, -⟩ := hu
  rw [State.seq_withSeq, hreq, if_pos ⟨rfl, hr⟩]

/-- Settles O25: the three lines run as one operation, or the first of them fails alone. -/
theorem nibbleIsTwoRawWrites : Obligations.NibbleIsTwoRawWrites := by
  rintro s r ⟨i, todo, k, t, t2⟩ n inByte rest hp ho rfl
  have hr := State.lt_of_seq hp
  have hu := s.unchanged_nibbleSent n k
  refine ⟨fun ws hw => ?bothOk, fun a ws hw ha => ?firstFails, fun a ws hw ha => ?secondFails⟩
  case bothOk =>
    rw [State.run_nibble hp ho hw]
    exact ⟨State.nibbleSent_events hw n k, State.seq_withSeq_of_unchanged hr hu _, s.nibbleSent_ctx n k,
      State.nibbleSent_expander hw n k⟩
  case firstFails =>
    rw [State.run_nibble_fail hp ho hw ha, State.seq_withSeq_of_unchanged hr (s.unchanged_tWrite _), State.events_withSeq,
      State.tWrite_events, Env.nextWrite_cons hw, ha, nibbleWire_true]
    exact ⟨rfl, rfl, rfl⟩
  case secondFails =>
    rw [State.run_nibble hp ho hw, State.seq_withSeq_of_unchanged hr hu, State.events_withSeq, State.nibbleSent_events hw n k, ha]
    exact ⟨rfl, rfl, s.nibbleSent_ctx n k⟩

/-! ### A byte write from wherever its command stands (R123, R125) -/

/-- The lines of a byte write at the front of a command, when nothing fails. -/
theorem State.run_byte {s : State} {r : Nat} {i : Instr} {rest : List Line} {k b : Byte} {t t2 d : Tick} {isData : Bool}
    (hp : (s.req r).seq = some ⟨i, byteLines s.cfg isData b d ++ rest, k, t, t2⟩) (ho : s.ctx.transportOpen = true)
    (hl : s.ctx.lockExists = true) (hf : s.ctx.lockOwner = none) {ws : List WriteAnswer}
    (hw : s.env.writes = .ok :: .ok :: .ok :: .ok :: ws) :
    ∃ k' t' t2', State.runLines 14 r s = (s.byteDone r isData b d).withSeq r (some ⟨i, rest, k', t', t2'⟩) := by
  exact ⟨_, _, _, (congrArg (State.runLines 14 r) (State.withSeq_self hp).symm).trans
    (State.run_byte_ok (n := 0) (State.lt_of_seq hp) hl hf ho hw)⟩

/-- The lines of a byte write at the front of a command, when the raw write with index `j` fails. -/
theorem State.run_byte_abort {s : State} {r : Nat} {i : Instr} {rest : List Line} {k b : Byte} {t t2 d : Tick} {isData : Bool}
    (hp : (s.req r).seq = some ⟨i, byteLines s.cfg isData b d ++ rest, k, t, t2⟩) (ho : s.ctx.transportOpen = true)
    (hl : s.ctx.lockExists = true) (hf : s.ctx.lockOwner = none) {j : Nat} {a : WriteAnswer} {ws : List WriteAnswer} (hj : j < 4)
    (hw : s.env.writes = List.replicate j .ok ++ a :: ws) (ha : a.isOk = false) :
    ∃ k' t' t2', State.runLines (2 * j + 7) r s =
      (s.byteFailed r isData b j).withSeq r (some ⟨i, abortLines i, k', t', t2'⟩) := by
  rw [← Nat.zero_add (2 * j)]
  exact ⟨_, _, _, (congrArg (State.runLines (0 + 2 * j + 7) r) (State.withSeq_self hp).symm).trans
    (State.run_byte_fail (State.lt_of_seq hp) hl hf ho hj hw ha 0)⟩

/-- Settles O26: the lines of a byte write run as one operation, whole or as far as the raw write that fails. -/
theorem byteWriteRunsOrAborts : Obligations.ByteWriteRunsOrAborts := by
  rintro s r ⟨i, todo, k, t, t2⟩ isData b d rest hp rfl hopen hlock hfree
  have hr := State.lt_of_seq hp
  refine ⟨fun ws hw => ?whole, fun j a ws hj hw ha => ?aborted⟩
  case whole =>
    obtain ⟨k', t', t2', hrun⟩ := State.run_byte hp hopen hlock hfree hw
    have hclock := s.waitClock_le_doneClock r isData b
    refine ⟨s.waitClock r, s.doneClock r isData b, s.clock_le_waitClock r, by omega, ?_, ?_, ?_⟩
    · rw [hrun, State.events_withSeq, State.byteDone_events hw]
      rfl
    · rw [hrun, State.withSeq_ctx, State.byteDone_ctx, ← hfree]
    · rw [hrun, State.seq_withSeq_of_unchanged hr (s.unchanged_byteDone r isData b d)]
      rfl
  case aborted =>
    obtain ⟨k', t', t2', hrun⟩ := State.run_byte_abort hp hopen hlock hfree hj hw ha
    refine ⟨s.waitClock r, s.clock_le_waitClock r, ?_, ?_, ?_⟩
    · rw [hrun, State.events_withSeq, State.byteFailed_events hj hw ha]
      rfl
    · rw [hrun, State.withSeq_ctx, State.byteFailed_ctx _ _ _ _ hj, ← hfree]
    · rw [hrun, State.seq_withSeq_of_unchanged hr (s.unchanged_byteFailed r isData b hj)]
      rfl

/-! ### The four wire bytes of a byte write (R126, R127) -/

/-- Settles O34: each half is latched once, and the two latches pair into the byte. -/
theorem observerSeesTheByte : Obligations.ObserverSeesTheByte := by
  intro c backlight isData b hlegal
  rw [wireBytes_eq_nibbleTransfers, latches_nibbleTransfers (legalLines_of_legal hlegal)]
  exact ⟨rfl, assembled_halves isData [b]⟩

/-- What every wire byte of a nibble transfer shows besides its nibble: the register select, the read/write line clear, the
backlight (R71). -/
theorem lines_of_mem_nibbleTransfers {c : Config} (h : c.legalLines = true) {backlight isData : Bool} {ns : List Nibble} {w : Byte}
    (hw : w ∈ nibbleTransfers c backlight isData ns) :
    registerSelect c w = isData ∧ w &&& c.rwBit = 0 ∧ (w &&& c.backlightBit != 0) = backlight := by
  obtain ⟨n, -, hw⟩ := List.mem_flatMap.mp hw
  obtain ⟨enable, rfl⟩ : ∃ enable, w = wireByteOf c n backlight enable isData :=
    (List.mem_pair.mp hw).elim (⟨true, ·⟩) (⟨false, ·⟩)
  obtain ⟨hrs, -, hen, hbl, -, -, rs_bl, -, -, en_bl⟩ := (legalLines_iff c).mp h
  obtain ⟨-, -, hselect⟩ := lines_of_wireByteOf h n backlight enable isData
  have hrw := rwClear_wireByteOf h n backlight enable isData
  have hbacklight : hasBit (wireByteOf c n backlight enable isData) c.backlightBit = backlight := by
    rw [wireByteOf, nibbleWire_eq, controlNibble_eq]
    simp [hasBit_or, hasBit_flag, hasBit_lineBit, hasBit_valueNibble, hrs, hen, hbl, rs_bl, en_bl]
  exact ⟨hselect, by simpa [rwClear] using hrw, hbacklight⟩

/-- Clearing a line that was clear before it was set. -/
theorem or_and_not_of_clear {x m : Byte} (h : x &&& m = 0#8) : (x ||| m) &&& ~~~m = x := by
  calc (x ||| m) &&& ~~~m = x &&& ~~~m := by simp [BitVec.and_or_distrib_right]
    _ = x &&& m ||| x &&& ~~~m := by rw [h, BitVec.zero_or]
    _ = x := by rw [← BitVec.and_or_distrib_left, BitVec.or_not_self, BitVec.and_allOnes]

/-- The two wire bytes of a nibble: the first has the enable line set, the second is the first without it, and the first shows the
nibble (R126). -/
theorem enable_of_wireByteOf {c : Config} (h : c.legalLines = true) (n : Nibble) (backlight rs : Bool) :
    wireByteOf c n backlight true rs &&& c.enBit ≠ 0 ∧
      wireByteOf c n backlight false rs = wireByteOf c n backlight true rs &&& ~~~c.enBit ∧
      upperNibble (wireByteOf c n backlight true rs) = n := by
  obtain ⟨hnibble, hset, -⟩ := lines_of_wireByteOf h n backlight true rs
  obtain ⟨-, hclear, -⟩ := lines_of_wireByteOf h n backlight false rs
  have hadd : wireByteOf c n backlight true rs = wireByteOf c n backlight false rs ||| c.enBit := by simp [wireByteOf]
  have hclear' : wireByteOf c n backlight false rs &&& c.enBit = 0#8 := by simpa [enableLine] using hclear
  refine ⟨by simpa [enableLine] using hset, ?_, hnibble⟩
  rw [hadd, or_and_not_of_clear hclear']

/-- A command that is one byte write is the write of that byte (R144, R172). -/
theorem exec_of_byteOf {s : State} {i : Instr} {isData : Bool} {b : Byte} {d : Tick} (h : byteOf s.cfg i = some (isData, b, d)) :
    exec i s = s.byteCommand i isData b d := by
  cases i with
  | setCursor row column =>
    simp only [byteOf] at h
    split at h
    · rename_i hin
      cases h
      exact if_pos (by simpa [cursorInRange] using hin)
    · cases h
  | kFunctionSet l n f x =>
    obtain ⟨rfl, rfl, rfl, hy⟩ := byteOf_kFunctionSet h
    cases hy
    rw [← functionSetByte_emitted]
    rfl
  | init | deinit | setBacklight | writeString | kSetCgramAddr | wireByte => cases h
  | _ =>
    cases h
    rfl

/-- Settles O33: the byte is sent as its two halves, and each wire byte shows its nibble and its lines. -/
theorem byteWriteHasTheShapeOfTwoNibbles : Obligations.ByteWriteHasTheShapeOfTwoNibbles := by
  intro s i isData b d ws h hb hw
  obtain ⟨hs, -⟩ := s.readyAlone_iff.mp h
  obtain ⟨-, hlegal, -⟩ := s.quietStart_iff.mp hs
  have hlines := legalLines_of_legal hlegal
  obtain ⟨t, ht, hsent⟩ := State.byteCommand_sends h hw i isData b d
  have hattempts := hsent.attempts
  rw [wireBytes_eq_nibbleTransfers] at hattempts
  obtain ⟨hset1, hclear1, hupper⟩ := enable_of_wireByteOf hlines (upperNibble b) s.ctx.backlightOn isData
  obtain ⟨hset3, hclear3, hlower⟩ := enable_of_wireByteOf hlines (lowerNibble b) s.ctx.backlightOn isData
  exact ⟨t, _, _, _, _, (exec_of_byteOf hb).trans ht, hattempts, hset1, hclear1, hset3, hclear3, hupper, hlower,
    fun w hmem => lines_of_mem_nibbleTransfers (ns := halves b) hlines hmem⟩

end Sys2Proof.Machine
end

section
/-! PROOF. The scheduler's tick (spec/42_scheduler.md R7, R148): every step keeps it within one cap of the clock, because every
command-specific delay is, and RECORD adds it to a reading of a clock that never goes back. -/

namespace Sys2Proof.Machine

/-! ### What RECORD adds is at most the cap (R7) -/

/-- RECORD of delay `d` adds at most the cap to its clock reading. -/
def DelayWithin (c : Config) (d : Tick) : Prop := (umax c.settleFloor d).toNat ≤ c.maxWait.toNat

/-- The command-specific delays of R6. -/
def commandDelays (c : Config) : List Tick :=
  [c.delayClear, c.delayHome, c.delayDisplayControl, c.delayEntryMode, c.delayShift, c.delayFunctionSet, c.delaySetDdram,
    c.delayData]

theorem delayWithin_of_legal {c : Config} (h : c.legal = true) {d : Tick} (hd : d ∈ commandDelays c) : DelayWithin c d := by
  simp only [Config.legal, Bool.and_eq_true] at h
  obtain ⟨⟨⟨-, hdelays⟩, -⟩, -⟩ := h
  exact of_decide_eq_true (p := (umax c.settleFloor d).toNat ≤ c.maxWait.toNat) (List.all_eq_true.mp hdelays d hd)

/-! ### What the lines of the commands record -/

theorem recordsWithin_append (c : Config) (xs ys : List Line) :
    recordsWithin c (xs ++ ys) = (recordsWithin c xs && recordsWithin c ys) := by
  induction xs with
  | nil => rfl
  | cons l xs ih => cases l <;> simp [recordsWithin, ih, Bool.and_assoc]

theorem recordsWithin_tail {c : Config} {l : Line} {rest : List Line} (h : recordsWithin c (l :: rest) = true) :
    recordsWithin c rest = true := by
  cases l with
  | recordTick d => exact (Bool.and_eq_true_iff.mp h).2
  | _ => exact h

theorem delayWithin_of_recordsWithin {c : Config} {d : Tick} {rest : List Line}
    (h : recordsWithin c (.recordTick d :: rest) = true) : DelayWithin c d := by
  obtain ⟨hd, -⟩ := Bool.and_eq_true_iff.mp h
  exact (decide_eq_true_iff.mp hd :)

/-- A byte write records its delay once. -/
theorem recordsWithin_byteLines_append {c : Config} (h : c.legal = true) {d : Tick} (hd : d ∈ commandDelays c) (isData : Bool)
    (b : Byte) (rest : List Line) : recordsWithin c (byteLines c isData b d ++ rest) = recordsWithin c rest := by
  have hbyte : recordsWithin c (byteLines c isData b d) = true :=
    Bool.and_eq_true_iff.mpr ⟨decide_eq_true (delayWithin_of_legal h hd), rfl⟩
  rw [recordsWithin_append, hbyte, Bool.true_and]

theorem recordsWithin_stringLines (c : Config) (saddr : BitVec 16) (i : Nat) : recordsWithin c (stringLines c saddr i) = true := by
  unfold stringLines
  split <;> rfl

/-- What follows a read string byte records the delay of a data byte, or nothing. -/
theorem recordsWithin_stringTail {c : Config} (h : c.legal = true) (saddr : BitVec 16) (i : Nat) (v : Byte) :
    recordsWithin c (stringTail c saddr i v) = true := by
  unfold stringTail
  split
  · rfl
  · rw [recordsWithin_byteLines_append h (by simp [commandDelays])]
    exact recordsWithin_stringLines c saddr (i + 1)

/-- The abort path records nothing. -/
theorem recordsWithin_raiseTransfer (c : Config) (p : Progress) (inByte : Bool) :
    recordsWithin c (p.raiseTransfer inByte).todo = true := by
  have habort : recordsWithin c (abortLines p.cmd) = true := by
    unfold abortLines
    split <;> rfl
  cases inByte <;> exact habort

/-- RESETSEQ records the delays of steps S5 to S8. -/
theorem recordsWithin_initLines {c : Config} (h : c.legal = true) (a : Byte) (b : Bool) :
    recordsWithin c (initLines c a b) = true := by
  have hmem : c.delayFunctionSet ∈ commandDelays c ∧ c.delayDisplayControl ∈ commandDelays c ∧
      c.delayClear ∈ commandDelays c ∧ c.delayEntryMode ∈ commandDelays c := by simp [commandDelays]
  simp [initLines, resetLines, bareNibbleLines, recordsWithin, recordsWithin_byteLines_append h, hmem]

/-- The lines of a command record its own delay, or nothing. -/
theorem recordsWithin_startLines {c : Config} (h : c.legal = true) (i : Instr) : recordsWithin c (startLines c i) = true := by
  have byte : ∀ isData b, ∀ d ∈ commandDelays c, recordsWithin c (byteLines c isData b d ++ [.ret .success]) = true := by
    intro isData b d hd
    rw [recordsWithin_byteLines_append h hd]
    rfl
  cases i with
  | setCursor row column =>
    simp only [startLines]
    split
    · exact byte _ _ _ (by simp [commandDelays])
    · rfl
  | writeString saddr => exact recordsWithin_stringLines c saddr 0
  | init | deinit | setBacklight | kSetCgramAddr | wireByte => rfl
  | _ => exact byte _ _ _ (by simp [commandDelays])

/-! ### The invariant -/

/-- What the invariant says of a command in progress, when the clock is `clock`. -/
def ProgressWithin (c : Config) (clock : Nat) (p : Progress) : Prop := p.t2.toNat ≤ clock ∧ recordsWithin c p.todo = true

theorem tickWithinCap_iff (s : State) : TickWithinCap s ↔ s.cfg.legal = true ∧
    s.ctx.nextReadyTick.toNat ≤ s.env.clock + s.cfg.maxWait.toNat ∧
    ∀ r p, (s.req r).seq = some p → ProgressWithin s.cfg s.env.clock p :=
  Iff.rfl

theorem ProgressWithin.mono {c : Config} {clock clock' : Nat} {p : Progress} (h : ProgressWithin c clock p)
    (hle : clock ≤ clock') : ProgressWithin c clock' p :=
  ⟨h.1.trans hle, h.2⟩

/-- The invariant after a move that lets the clock go on only, given the tick and the positions it leaves. -/
theorem TickWithinCap.of_update {s t : State} (h : TickWithinCap s) (hcfg : t.cfg = s.cfg) (hclock : s.env.clock ≤ t.env.clock)
    (htick : t.ctx.nextReadyTick.toNat ≤ s.env.clock + s.cfg.maxWait.toNat)
    (hseq : ∀ r p, (t.req r).seq = some p → (s.req r).seq = some p ∨ ProgressWithin s.cfg t.env.clock p) : TickWithinCap t := by
  obtain ⟨hlegal, -, hprogress⟩ := (tickWithinCap_iff s).mp h
  refine (tickWithinCap_iff t).mpr ⟨hcfg ▸ hlegal, ?_, fun r p hp => ?_⟩
  · rw [hcfg]
    omega
  · rw [hcfg]
    rcases hseq r p hp with hold | hnew
    · exact (hprogress r p hold).mono hclock
    · exact hnew

/-! ### One line -/

/-- A reading is at most the clock when it is made. -/
theorem State.nowValue_le (s : State) : s.nowValue.toNat ≤ s.now.env.clock := by
  rw [State.nowValue, BitVec.toNat_ofNat]
  exact Nat.mod_le _ _

/-- Only RECORD moves the tick forward, and by no more than the cap from its reading (R142). -/
theorem lineCtx_tick_le {s : State} {p : Progress} {l : Line} {rest : List Line} (r : Nat)
    (htick : s.ctx.nextReadyTick.toNat ≤ s.env.clock + s.cfg.maxWait.toNat)
    (hp : ProgressWithin s.cfg s.env.clock { p with todo := l :: rest }) :
    (lineCtx r { p with todo := rest } l s).nextReadyTick.toNat ≤ s.env.clock + s.cfg.maxWait.toNat := by
  obtain ⟨ht2, htodo⟩ := hp
  cases l with
  | recordTick d =>
    have hd : (umax s.cfg.settleFloor d).toNat ≤ s.cfg.maxWait.toNat := delayWithin_of_recordsWithin htodo
    calc (p.t2 + umax s.cfg.settleFloor d).toNat
        ≤ p.t2.toNat + (umax s.cfg.settleFloor d).toNat := by rw [BitVec.toNat_add]; exact Nat.mod_le _ _
      _ ≤ s.env.clock + s.cfg.maxWait.toNat := Nat.add_le_add ht2 hd
  | fillDefaults | invalidate | freeContext => exact Nat.zero_le _
  | openTransport | createLock =>
    simp only [lineCtx]
    split <;> exact htick
  | _ => exact htick

/-- Where a command stands after a line, its reading is not ahead of the clock and it will record no more than the cap. -/
theorem ProgressWithin.lineSeq {s : State} {p : Progress} {l : Line} (r : Nat) (hlegal : s.cfg.legal = true)
    (h : ProgressWithin s.cfg s.env.clock p) : ∀ q ∈ lineSeq p l s, ProgressWithin s.cfg (s.lineStep r p l).env.clock q := by
  intro q hq
  obtain ⟨ht2, htodo⟩ := h.mono (s.lineStep_clock r p l)
  cases l with
  | alloc | openTransport | createLock =>
    cases hq
    split
    · exact ⟨ht2, htodo⟩
    · exact ⟨ht2, rfl⟩
  | nibbleWrite | rawWrite =>
    cases hq
    split
    · exact ⟨ht2, htodo⟩
    · exact ⟨ht2, recordsWithin_raiseTransfer s.cfg p _⟩
  | readClockAgain =>
    cases hq
    exact ⟨s.nowValue_le, htodo⟩
  | readString =>
    cases hq
    exact ⟨ht2, recordsWithin_stringTail hlegal _ _ _⟩
  | becomeReady | freeContext | ret => cases hq
  | _ =>
    cases hq
    exact ⟨ht2, htodo⟩

theorem TickWithinCap.perform {s : State} {r : Nat} (h : TickWithinCap s) (hm : s.canMove r = true) :
    TickWithinCap (s.perform r) := by
  obtain ⟨hlegal, htick, hprogress⟩ := (tickWithinCap_iff s).mp h
  obtain ⟨p, hp, ⟨-, he⟩ | ⟨l, rest, ht, -, he⟩⟩ := State.perform_cases hm
  · rw [he]
    refine h.of_update rfl le_rfl htick fun r' q hq => .inl ?_
    rw [State.seq_withSeq] at hq
    split at hq
    · cases hq
    · exact hq
  · obtain ⟨ht2, htodo⟩ := hprogress r p hp
    rw [ht] at htodo
    obtain ⟨hcfg, -⟩ := s.lineStep_kept r { p with todo := rest } l
    rw [he]
    refine h.of_update hcfg (s.lineStep_clock _ _ _) ?_ fun r' q hq => ?_
    · rw [State.lineStep_ctx]
      exact lineCtx_tick_le r htick ⟨ht2, htodo⟩
    · rw [State.lineStep_seq] at hq
      split at hq
      · exact .inr (ProgressWithin.lineSeq (p := { p with todo := rest }) r hlegal ⟨ht2, recordsWithin_tail htodo⟩ q hq)
      · exact .inl hq

/-! ### The start of a command -/

/-- The lines a command starts with record no more than the cap, and its arrival leaves the tick. -/
theorem Starts.arrives_within {i : Instr} {s start : State} (h : Starts i s start) :
    ∃ lines c, start = (s.arrive i lines).withCtx c ∧ c.nextReadyTick = s.ctx.nextReadyTick ∧
      recordsWithin s.cfg lines = true := by
  have htick : ∀ lines, (s.arrive i lines).ctx.nextReadyTick = s.ctx.nextReadyTick := fun lines => by
    obtain ⟨-, hctx, -⟩ := s.arrive_kept i lines
    rw [hctx]
  obtain ⟨-, -, hlegal, -, ⟨a, b, -, -, rfl⟩ | ⟨-, -, rfl⟩ | ⟨-, -, rfl⟩⟩ := h
  · exact ⟨initLines s.cfg a b, _, rfl, htick (initLines s.cfg a b), recordsWithin_initLines hlegal a b⟩
  · exact ⟨deinitLines, _, rfl, htick deinitLines, rfl⟩
  · exact ⟨startLines s.cfg i, _, rfl, htick (startLines s.cfg i), recordsWithin_startLines hlegal i⟩

theorem TickWithinCap.starts {i : Instr} {s start : State} (h : TickWithinCap s) (hst : Starts i s start) :
    TickWithinCap start := by
  obtain ⟨-, htick, -⟩ := (tickWithinCap_iff s).mp h
  obtain ⟨lines, c, rfl, hc, hlines⟩ := hst.arrives_within
  obtain ⟨hcfg, -, -, -, -, -, hclock, -⟩ := s.arrive_kept i lines
  refine h.of_update hcfg hclock (hc ▸ htick) fun r p hp => ?_
  have hseq : ((s.arrive i lines).req r).seq = some p := hp
  rw [State.arrive_seq] at hseq
  split at hseq
  · obtain rfl := Option.some.inj hseq
    exact .inr ⟨Nat.zero_le _, hlines⟩
  · exact .inl hseq

/-- Settles O40: the moves outside the commands only let the clock go on, every line keeps the invariant, and every start. -/
theorem tickStaysWithinCap : Obligations.TickStaysWithinCap := by
  intro s t hs h
  refine step_keeps (fun s u hs hout => ?_) (fun s hs hm => hs.perform hm) (fun i s start hs hst => hs.starts hst) hs h
  obtain ⟨hcfg, hctx, -, -, -, hseq, hclock⟩ := hout
  obtain ⟨-, htick, -⟩ := (tickWithinCap_iff s).mp hs
  exact hs.of_update hcfg hclock (hctx ▸ htick) fun r p hp => .inl (hseq r ▸ hp)

end Sys2Proof.Machine
end

section
/-! PROOF. WAIT and RECORD (spec/42_scheduler.md R141, R142): what each does, line by line, and that no tick is left to wait for
after a failed byte write (R143, R228). -/

namespace Sys2Proof.Machine

/-! ### The larger and the smaller of two times (R150) -/

theorem umin_toNat (a b : Tick) : (umin a b).toNat = min a.toNat b.toNat := by
  unfold umin
  split
  · rename_i h
    exact (Nat.min_eq_right (Nat.le_of_lt h)).symm
  · rename_i h
    exact (Nat.min_eq_left (Nat.le_of_not_lt h)).symm

theorem umax_toNat (a b : Tick) : (umax a b).toNat = max a.toNat b.toNat := by
  unfold umax
  split
  · rename_i h
    exact (Nat.max_eq_right (Nat.le_of_lt h)).symm
  · rename_i h
    exact (Nat.max_eq_left (Nat.le_of_not_lt h)).symm

/-! ### How long WAIT waits (R141) -/

/-- WAIT does not wait for a tick that is not later than the reading. -/
theorem waitFor_of_le {s : State} {now : Tick} (h : s.ctx.nextReadyTick.toNat ≤ now.toNat) : waitFor s now = none :=
  if_neg (Nat.not_lt_of_le h)

/-- For a later tick it waits the difference, up to the cap. -/
theorem waitFor_of_lt {s : State} {now : Tick} (h : now.toNat < s.ctx.nextReadyTick.toNat) :
    ∃ w : Tick, waitFor s now = some w ∧ w.toNat = min (s.ctx.nextReadyTick.toNat - now.toNat) s.cfg.maxWait.toNat := by
  refine ⟨_, if_pos h, ?_⟩
  rw [umin_toNat, BitVec.toNat_sub_of_le (BitVec.le_def.mpr (Nat.le_of_lt h))]

/-- The two lines of WAIT in one. -/
theorem State.run_wait {s : State} {r : Nat} {i : Instr} {rest : List Line} {k : Byte} {t t2 : Tick}
    (hp : (s.req r).seq = some ⟨i, .readClock :: .waitReady :: rest, k, t, t2⟩) :
    State.runLines 2 r s = (s.now.waitReady s.nowValue).withSeq r (some ⟨i, rest, k, s.nowValue, t2⟩) := by
  have hr := State.lt_of_seq hp
  conv_lhs => rw [← State.withSeq_self hp]
  rw [State.runLines_at hr rfl]
  simp only [State.lineStep, State.now_withSeq, State.nowValue_withSeq, State.withSeq_withSeq]
  rw [State.runLines_at (by exact hr) rfl]
  simp only [State.lineStep, State.waitReady_withSeq, State.withSeq_withSeq, State.runLines]

/-- Settles O36: WAIT is one reading and what it waits for that reading. -/
theorem waitDelaysAtMostOnce : Obligations.WaitDelaysAtMostOnce := by
  rintro s r ⟨i, todo, k, t, t2⟩ rest hp rfl
  have hrun := State.run_wait hp
  have hevents : (State.runLines 2 r s).events = s.events ++ [.now s.nowValue] ++ waitEvents s s.nowValue := by
    rw [hrun]
    exact (State.waitReady_events s.now s.nowValue).trans (congrArg (· ++ _) s.now_events)
  refine ⟨fun hle => ?notLater, fun hlt => ?later, ?context, ?position⟩
  case notLater =>
    rw [hevents, waitEvents, waitFor_of_le hle, List.append_nil]
  case later =>
    obtain ⟨w, hw, hmin⟩ := waitFor_of_lt hlt
    refine ⟨w, ?_, hmin⟩
    rw [hevents, waitEvents, hw, List.append_assoc]
    rfl
  case context =>
    rw [hrun]
    exact State.waitReady_ctx s.now s.nowValue
  case position =>
    simp [hrun, State.seq_withSeq, State.lt_of_seq hp]

/-! ### What RECORD stores (R142) -/

/-- The two lines of RECORD in one. -/
theorem State.run_record {s : State} {r : Nat} {i : Instr} {rest : List Line} {k : Byte} {t t2 d : Tick}
    (hp : (s.req r).seq = some ⟨i, .readClockAgain :: .recordTick d :: rest, k, t, t2⟩) :
    State.runLines 2 r s = (s.now.withTick (s.nowValue + umax s.cfg.settleFloor d)).withSeq r
      (some ⟨i, rest, k, t, s.nowValue⟩) := by
  have hr := State.lt_of_seq hp
  conv_lhs => rw [← State.withSeq_self hp]
  rw [State.runLines_at hr rfl]
  simp only [State.lineStep, State.now_withSeq, State.nowValue_withSeq, State.withSeq_withSeq]
  rw [State.runLines_at (by exact hr) rfl]
  simp only [State.lineStep, State.withTick_withSeq, State.withSeq_withSeq, State.runLines]
  rfl

/-- Settles O37: RECORD is one reading and the tick made from it. -/
theorem recordStoresTheTick : Obligations.RecordStoresTheTick := by
  rintro s r ⟨i, todo, k, t, t2⟩ rest d hp rfl
  rw [State.run_record hp]
  refine ⟨?tick, rfl, s.now_events, ?position⟩
  case tick =>
    exact (BitVec.toNat_add _ _).trans (by rw [umax_toNat])
  case position =>
    simp [State.seq_withSeq, State.lt_of_seq hp]

/-! ### After a failure (R143, R228, R264) -/

/-- A command that is one byte write is neither INIT nor DEINIT. -/
theorem not_lifecycle_of_byteOf {c : Config} {i : Instr} {y : Bool × Byte × Tick} (h : byteOf c i = some y) :
    i.lifecycle = false := by
  cases i with
  | init | deinit => cases h
  | _ => rfl

/-- Settles O27: the failed byte write leaves the tick 0, which no reading is earlier than, and a requester alone as before. -/
theorem nextCommandAfterAFailureDoesNotWait : Obligations.NextCommandAfterAFailureDoesNotWait := by
  intro s i isData b d k a ws h hb hk hw ha
  obtain ⟨t, ht, hfailed⟩ := State.byteCommand_aborts h hk hw ha (not_lifecycle_of_byteOf hb) isData b d
  obtain ⟨c1, -, -, hctx, -, -, -, hu⟩ := hfailed
  refine ⟨t, (exec_of_byteOf hb).trans ht, State.readyAlone_of_unchanged h hu hctx, fun now => waitFor_of_le ?_⟩
  rw [hctx]
  exact Nat.zero_le _

end Sys2Proof.Machine
end

section
/-! PROOF. The spacing of byte writes (spec/42_scheduler.md R146, R147): WAIT does not return before the tick, RECORD's tick does not
wrap while the clock stays below 2^64, so the next byte's raw writes start no earlier than the recorded delay. -/

namespace Sys2Proof.Machine

/-! ### The tick, RECORD's and WAIT's (R141, R142) -/

/-- The delay of a byte write is one of the command-specific delays (R144). -/
theorem delay_mem_of_byteOf {c : Config} {i : Instr} {isData : Bool} {b : Byte} {d : Tick}
    (h : byteOf c i = some (isData, b, d)) : d ∈ commandDelays c := by
  cases i with
  | setCursor row column =>
    simp only [byteOf] at h
    split at h <;> cases h
    simp [commandDelays]
  | kFunctionSet l n f x =>
    obtain ⟨-, -, -, hy⟩ := byteOf_kFunctionSet h
    cases hy
    simp [commandDelays]
  | init | deinit | setBacklight | writeString | kSetCgramAddr | wireByte => cases h
  | _ =>
    cases h
    simp [commandDelays]

/-- While the clock is a cap below 2^64 the recorded tick does not wrap. -/
theorem recordedTick_toNat {c : Config} {d : Tick} (hd : DelayWithin c d) {clock : Nat}
    (hclock : clock + c.maxWait.toNat < 2 ^ 64) :
    (BitVec.ofNat 64 clock + umax c.settleFloor d).toNat = clock + (umax c.settleFloor d).toNat := by
  unfold DelayWithin at hd
  rw [BitVec.toNat_add, BitVec.toNat_ofNat]
  omega

/-- WAIT does not return before a tick that is at most one cap ahead of its reading. -/
theorem tick_le_waited {s : State} {clock : Nat} (hclock : clock < 2 ^ 64)
    (hcap : s.ctx.nextReadyTick.toNat ≤ clock + s.cfg.maxWait.toNat) :
    s.ctx.nextReadyTick.toNat ≤ clock + waitedMicros s (BitVec.ofNat 64 clock) := by
  have hnow : (BitVec.ofNat 64 clock).toNat = clock := Nat.mod_eq_of_lt hclock
  rcases Nat.lt_or_ge clock s.ctx.nextReadyTick.toNat with hlater | hpast
  · obtain ⟨w, hw, hmin⟩ := waitFor_of_lt (hnow.symm ▸ hlater)
    simp only [waitedMicros, hw]
    omega
  · exact hpast.trans (Nat.le_add_right _ _)

/-- A command that is one byte write has sent its byte wherever nothing failed. -/
theorem byteSent_of_exec {s t : State} {i : Instr} {isData : Bool} {b : Byte} {d : Tick} {ws : List WriteAnswer}
    (h : s.readyAlone = true) (hb : byteOf s.cfg i = some (isData, b, d)) (hw : s.env.writes = .ok :: .ok :: .ok :: .ok :: ws)
    (hx : exec i s = .next t) : ByteSent s t i isData b d := by
  obtain ⟨t', ht', hsent⟩ := State.byteCommand_sends h hw i isData b d
  obtain rfl : t' = t := Host.Outcome.next.inj (ht'.symm.trans ((exec_of_byteOf hb).symm.trans hx))
  exact hsent

/-- Settles O39: WAIT lets the clock reach the old tick, and the new tick is later than a reading after it. -/
theorem tickDoesNotDecreaseWhileHealthy : Obligations.TickDoesNotDecreaseWhileHealthy := by
  intro s t i isData b d ws h hcap hb hw hx hbound
  obtain ⟨hlegal, htick, -⟩ := hcap
  obtain ⟨c1, c2, hstart, hwaits, hend, hctx, -⟩ := byteSent_of_exec h hb hw hx
  have hold : s.ctx.nextReadyTick.toNat ≤ c1 + waitedMicros s (BitVec.ofNat 64 c1) :=
    tick_le_waited (by omega) (by omega)
  have hnew : t.ctx.nextReadyTick.toNat = c2 + (umax s.cfg.settleFloor d).toNat := by
    rw [hctx]
    exact recordedTick_toNat (delayWithin_of_legal hlegal (delay_mem_of_byteOf hb)) (by omega)
  omega

/-! ### When the events of a run happen (R197, R199) -/

/-- From `s` to `t` the clock does not go back, and the events that are new lie between the two clock values. -/
structure Lapses (s t : State) : Prop where
  clock : s.env.clock ≤ t.env.clock
  events : ∃ new, t.history = s.history ++ new ∧ ∀ e ∈ new, s.env.clock ≤ e.start ∧ e.finish ≤ t.env.clock

theorem Lapses.of_same {s t : State} (hh : t.history = s.history) (hc : t.env.clock = s.env.clock) : Lapses s t :=
  ⟨hc.ge, [], by simp [hh], by simp⟩

theorem Lapses.of_port {s t : State} {n : Nat} {ev : Event} (hh : t.history = (s.port n ev).history)
    (hc : t.env.clock = (s.port n ev).env.clock) : Lapses s t := by
  refine ⟨?_, _, hh, fun e he => ?_⟩
  · rw [hc, State.port_env, Env.tick_clock, Nat.add_assoc]
    exact Nat.le_add_right _ _
  · obtain rfl := List.mem_singleton.mp he
    exact ⟨le_rfl, hc.ge⟩

theorem Lapses.trans {s t u : State} (h : Lapses s t) (h' : Lapses t u) : Lapses s u := by
  obtain ⟨hclock, new, hh, hnew⟩ := h
  obtain ⟨hclock', new', hh', hnew'⟩ := h'
  refine ⟨hclock.trans hclock', new ++ new', by rw [hh', hh, List.append_assoc], fun e he => ?_⟩
  rcases List.mem_append.mp he with he | he
  · exact ⟨(hnew e he).1, (hnew e he).2.trans hclock'⟩
  · exact ⟨hclock.trans (hnew' e he).1, (hnew' e he).2⟩

theorem State.lapses_lineStep (s : State) (r : Nat) (p : Progress) (l : Line) : Lapses s (s.lineStep r p l) := by
  cases l with
  | openTransport | createLock =>
    simp only [State.lineStep]
    split <;> exact .of_port rfl rfl
  | waitReady =>
    simp only [State.lineStep, State.waitReady]
    split
    · exact .of_port rfl rfl
    · exact .of_same rfl rfl
  | becomeReady | freeContext | ret =>
    simp only [State.lineStep, State.finish]
    split
    · exact .of_port rfl rfl
    · exact .of_same rfl rfl
  | fillDefaults | control | recordTick | invalidate | storeBacklight => exact .of_same rfl rfl
  | _ => exact .of_port rfl rfl

theorem State.lapses_perform (s : State) (r : Nat) : Lapses s (s.perform r) := by
  unfold State.perform
  split
  · exact .of_same rfl rfl
  · split
    · exact .of_same rfl rfl
    · exact s.lapses_lineStep r _ _

theorem State.lapses_runLines (n r : Nat) (s : State) : Lapses s (State.runLines n r s) := by
  induction n generalizing s with
  | zero => exact .of_same rfl rfl
  | succ n ih =>
    rw [State.runLines]
    split
    · exact (s.lapses_perform r).trans (ih _)
    · exact .of_same rfl rfl

theorem State.lapses_arrive (s : State) (i : Instr) (lines : List Line) : Lapses s (s.arrive i lines) := by
  unfold State.arrive
  split
  · exact .of_port rfl rfl
  · exact .of_same rfl rfl

/-- Where no raw write is made, no new event is one. -/
theorem not_attempted_of_silent {s t : State} {new : List Stamped} (hh : t.history = s.history ++ new)
    (hsilent : attemptsOf t.events = attemptsOf s.events) : ∀ e ∈ new, e.event.attempted = none := by
  intro e he
  rw [State.events, hh, List.map_append, attemptsOf_append] at hsilent
  exact List.filterMap_eq_nil_iff.mp (List.append_right_eq_self.mp hsilent) _ (List.mem_map_of_mem he)

/-- A new raw write starts after a first stretch that makes none. -/
theorem Lapses.attempt_start {s v t : State} (h : Lapses s v) (h' : Lapses v t)
    (hsilent : attemptsOf v.events = attemptsOf s.events) {e : Stamped} (he : e ∈ t.history.drop s.history.length)
    (hattempt : e.event.attempted.isSome = true) : v.env.clock ≤ e.start := by
  obtain ⟨-, new, hh, -⟩ := h
  obtain ⟨-, new', hh', hnew'⟩ := h'
  rw [hh', hh, List.append_assoc, List.drop_left] at he
  rcases List.mem_append.mp he with he | he
  · rw [not_attempted_of_silent hh hsilent e he] at hattempt
    cases hattempt
  · exact (hnew' e he).1

/-- A new raw write has finished before a last stretch that makes none. -/
theorem Lapses.attempt_finish {s v t : State} (h : Lapses s v) (h' : Lapses v t)
    (hsilent : attemptsOf t.events = attemptsOf v.events) {e : Stamped} (he : e ∈ t.history.drop s.history.length)
    (hattempt : e.event.attempted.isSome = true) : e.finish ≤ v.env.clock := by
  obtain ⟨-, new, hh, hnew⟩ := h
  obtain ⟨-, new', hh', -⟩ := h'
  rw [hh', hh, List.append_assoc, List.drop_left] at he
  rcases List.mem_append.mp he with he | he
  · exact (hnew e he).2
  · rw [not_attempted_of_silent hh' hsilent e he] at hattempt
    cases hattempt

/-! ### A command that is one byte write, run alone, cut after WAIT and after its last raw write -/

/-- Lines B3 to B5 (R123). -/
def transferLines (c : Config) (b : Byte) : List Line :=
  [.nibbleWrite (upperNibble b) true true, .delay c.enablePulse, .nibbleWrite (upperNibble b) false true, .delay c.enableSettle,
   .nibbleWrite (lowerNibble b) true true, .delay c.enablePulse, .nibbleWrite (lowerNibble b) false true]

/-- The lines of a byte write after B5, and the return of its command (R123, R142). -/
def recordLines (d : Tick) : List Line := [.readClockAgain, .recordTick d, .release, .ret .success]

/-- A command that is one byte write arrives and runs its lines. -/
def State.byteArrival (i : Instr) (isData : Bool) (b : Byte) (d : Tick) (s : State) : State :=
  s.arrive i (byteLines s.cfg isData b d ++ [.ret .success])

theorem exec_eq_run_byteArrival {s : State} {i : Instr} {isData : Bool} {b : Byte} {d : Tick} (h : s.readyAlone = true)
    (hb : byteOf s.cfg i = some (isData, b, d)) :
    exec i s = .next (State.runLines s.budget s.cur (s.byteArrival i isData b d)) :=
  (exec_of_byteOf hb).trans (State.readyCommand_of_readyAlone h i _)

/-- Its first four lines are `Acquire` and WAIT. -/
theorem State.run_byteArrival_wait {s : State} (h : s.readyAlone = true) (i : Instr) (isData : Bool) (b : Byte) (d : Tick) :
    State.runLines 4 s.cur (s.byteArrival i isData b d) = ((s.arrived i).byteStart s.cur).withSeq s.cur
      (some ⟨i, transferLines s.cfg b ++ recordLines d, (s.arrived i).byteControl isData, (s.arrived i).byteNow s.cur, 0⟩) := by
  obtain ⟨hs, -, -, hexists, howner⟩ := s.readyAlone_iff.mp h
  obtain ⟨hr, -⟩ := s.quietStart_iff.mp hs
  obtain ⟨-, -, hreq, -⟩ := s.unchanged_arrived i
  exact State.run_byteStart (s := s.arrived i) (n := 0) (by rwa [hreq]) (by simpa using hexists) (by simpa using howner)

/-- When nothing fails the seven lines after them make its four raw writes. -/
theorem State.run_byteArrival_transfer {s : State} {ws : List WriteAnswer} (h : s.readyAlone = true)
    (hw : s.env.writes = .ok :: .ok :: .ok :: .ok :: ws) (i : Instr) (isData : Bool) (b : Byte) (d : Tick) :
    State.runLines 11 s.cur (s.byteArrival i isData b d) =
      (((s.arrived i).byteStart s.cur).byteWrite3 s.cfg ((s.arrived i).byteControl isData) b).withSeq s.cur
        (some ⟨i, recordLines d, (s.arrived i).byteControl isData, (s.arrived i).byteNow s.cur, 0⟩) := by
  obtain ⟨hs, -, hopen, -⟩ := s.readyAlone_iff.mp h
  obtain ⟨hr, -⟩ := s.quietStart_iff.mp hs
  obtain ⟨hcfg, -, hreq, -⟩ := (s.unchanged_arrived i).trans ((s.arrived i).unchanged_byteStart s.cur)
  rw [State.runLines_add 4 7, State.run_byteArrival_wait h, ← hcfg]
  exact State.run_byteTransfer_ok (n := 0) (by rwa [hreq]) (by simpa using hopen) (by simpa using hw)

/-- The arrival and WAIT make no raw write. -/
theorem State.attempts_byteStart (s : State) (i : Instr) (r : Nat) :
    attemptsOf ((s.arrived i).byteStart r).events = attemptsOf s.events := by
  obtain ⟨hwait, -⟩ := traffic_waitEvents (s.arrived i) ((s.arrived i).byteNow r)
  have hcmd : attemptsOf (cmdEvents s i) = [] := by
    unfold cmdEvents
    split <;> rfl
  have hstart : attemptsOf [.acquire r, .now ((s.arrived i).byteNow r)] = [] := rfl
  rw [State.byteStart_events, State.arrived_events]
  simp only [attemptsOf_append, hcmd, hstart, hwait, List.append_nil]

/-- A run cut after its first lines: its events lie before the cut or after it. -/
theorem lapses_around_cut {s v t : State} {i : Instr} {isData : Bool} {b : Byte} {d : Tick} {x : Option Progress} {m : Nat}
    (h : s.readyAlone = true) (hb : byteOf s.cfg i = some (isData, b, d)) (hx : exec i s = .next t) (hm : m ≤ 96)
    (hcut : State.runLines m s.cur (s.byteArrival i isData b d) = v.withSeq s.cur x) : Lapses s v ∧ Lapses v t := by
  have hbudget : s.budget = m + (s.budget - m) := by
    simp only [State.budget]
    omega
  rw [exec_eq_run_byteArrival h hb, hbudget, State.runLines_add, hcut] at hx
  obtain rfl := Host.Outcome.next.inj hx
  obtain ⟨hclock, hevents⟩ := hcut ▸ (s.lapses_arrive i _).trans (State.lapses_runLines m s.cur (s.byteArrival i isData b d))
  obtain ⟨hclock', hevents'⟩ := State.lapses_runLines (s.budget - m) s.cur (v.withSeq s.cur x)
  exact ⟨⟨hclock, hevents⟩, ⟨hclock', hevents'⟩⟩

/-! ### The spacing law (R147) -/

/-- The raw writes of a byte write that does not fail have finished when RECORD reads the clock. -/
theorem attempt_finish_le_doneClock {s t : State} {i : Instr} {isData : Bool} {b : Byte} {d : Tick} {ws : List WriteAnswer}
    (h : s.readyAlone = true) (hb : byteOf s.cfg i = some (isData, b, d)) (hw : s.env.writes = .ok :: .ok :: .ok :: .ok :: ws)
    (hx : exec i s = .next t) {e : Stamped} (he : e ∈ t.history.drop s.history.length)
    (hattempt : e.event.attempted.isSome = true) : e.finish ≤ (s.arrived i).doneClock s.cur isData b := by
  obtain ⟨hcfg, -⟩ := s.unchanged_arrived i
  obtain ⟨hfirst, hrest⟩ := lapses_around_cut h hb hx (by decide) (State.run_byteArrival_transfer h hw i isData b d)
  refine (hfirst.attempt_finish hrest ?silent he hattempt).trans ?clock
  case silent =>
    rw [(byteSent_of_exec h hb hw hx).attempts, State.byteControl, hcfg, State.arrived_ctx,
      State.byteWrite3_events (ws := ws) (by simpa using hw), attemptsOf_append, State.attempts_byteStart,
      attemptsOf_transferEvents]
  case clock =>
    rw [State.doneClock, hcfg]
    exact State.clock_le_recordClock _

/-- That reading is an event, and the tick is made from it (R142). -/
theorem recorded_at_doneClock {s t : State} {i : Instr} {isData : Bool} {b : Byte} {d : Tick} {ws : List WriteAnswer}
    (h : s.readyAlone = true) (hb : byteOf s.cfg i = some (isData, b, d)) (hw : s.env.writes = .ok :: .ok :: .ok :: .ok :: ws)
    (hx : exec i s = .next t) :
    t.cfg = s.cfg ∧ Event.now (BitVec.ofNat 64 ((s.arrived i).doneClock s.cur isData b)) ∈ t.events ∧
      t.ctx.nextReadyTick = BitVec.ofNat 64 ((s.arrived i).doneClock s.cur isData b) + umax s.cfg.settleFloor d ∧
      (s.arrived i).doneClock s.cur isData b ≤ t.env.clock := by
  obtain ⟨hcfg, -⟩ := s.unchanged_arrived i
  have hu := (s.unchanged_arrived i).trans ((s.arrived i).unchanged_byteDone s.cur isData b d)
  obtain ⟨hcfg', -⟩ := hu.trans (State.unchanged_returned _ s.cur i .success)
  have hw' : (s.arrived i).env.writes = .ok :: .ok :: .ok :: .ok :: ws := (s.arrived_writes i).trans hw
  obtain rfl := Host.Outcome.next.inj ((State.byteCommand_ok h hw i isData b d).symm.trans ((exec_of_byteOf hb).symm.trans hx))
  refine ⟨hcfg', ?_, ?_, (State.recordClock_le_byteEnd _ _ _).trans (State.returned_clock _ _ _ _)⟩
  · rw [State.returned_events hu.1, State.byteDone_events hw']
    simp
  · rw [State.returned_ctx, State.byteDone_ctx, hcfg]

/-- The raw writes of a byte write start no earlier than the tick it finds. -/
theorem tick_le_attempt_start {s u : State} {i : Instr} {isData : Bool} {b : Byte} {d : Tick} (h : s.readyAlone = true)
    (hb : byteOf s.cfg i = some (isData, b, d)) (hx : exec i s = .next u) (hbound : u.env.clock < 2 ^ 64)
    (hcap : s.ctx.nextReadyTick.toNat ≤ s.env.clock + s.cfg.maxWait.toNat) {e : Stamped}
    (he : e ∈ u.history.drop s.history.length) (hattempt : e.event.attempted.isSome = true) :
    s.ctx.nextReadyTick.toNat ≤ e.start := by
  obtain ⟨hfirst, hrest⟩ := lapses_around_cut h hb hx (by decide) (State.run_byteArrival_wait h i isData b d)
  obtain ⟨hcfg, -⟩ := s.unchanged_arrived i
  have hread : s.env.clock ≤ (s.arrived i).waitClock s.cur := (s.arrived_clock i).trans (State.clock_le_waitClock _ _)
  have hwait := (s.arrived i).byteStart_clock s.cur
  have hend := hrest.clock
  calc s.ctx.nextReadyTick.toNat
      ≤ (s.arrived i).waitClock s.cur + waitedMicros (s.arrived i) ((s.arrived i).byteNow s.cur) := by
        rw [← s.arrived_ctx i] at hcap ⊢
        rw [← hcfg] at hcap
        exact tick_le_waited (by omega) (by omega)
    _ ≤ ((s.arrived i).byteStart s.cur).env.clock := hwait
    _ ≤ e.start := hfirst.attempt_start hrest (s.attempts_byteStart i s.cur) he hattempt

/-- Settles O38: the second byte waits for the tick the first one recorded. -/
theorem bytesAreSpacedByTheRecordedDelay : Obligations.BytesAreSpacedByTheRecordedDelay := by
  intro s t s1 u i j isData isData' b b' d d' ws h hb hw hx h1 hcfg1 hctx1 hle hb' hx' hbound
  obtain ⟨hs, -⟩ := s.readyAlone_iff.mp h
  obtain ⟨-, hlegal, -⟩ := s.quietStart_iff.mp hs
  have hd : (umax s.cfg.settleFloor d).toNat ≤ s.cfg.maxWait.toNat := delayWithin_of_legal hlegal (delay_mem_of_byteOf hb)
  obtain ⟨hcfg, hnow, htick, hdone⟩ := recorded_at_doneClock h hb hw hx
  obtain ⟨hfirst, hrest⟩ := lapses_around_cut h1 hb' hx' (by decide) (State.run_byteArrival_wait h1 j isData' b' d')
  have hclock := hfirst.clock.trans hrest.clock
  have hfound : s1.ctx.nextReadyTick.toNat =
      (s.arrived i).doneClock s.cur isData b + (umax s.cfg.settleFloor d).toNat := by
    rw [hctx1, htick]
    exact recordedTick_toNat hd (by omega)
  refine ⟨_, hnow, fun e he hattempt => attempt_finish_le_doneClock h hb hw hx he hattempt, fun e he hattempt => ?_⟩
  rw [← hfound]
  refine tick_le_attempt_start h1 hb' hx' (by omega) ?_ he hattempt
  rw [hfound, hcfg1, hcfg]
  omega

end Sys2Proof.Machine
end

section
/-! PROOF. The command API (spec/43_command_api.md): which commands are refused, DEINIT, the commands that are one byte write,
SETCURSOR out of range, and SETBACKLIGHT. -/

namespace Sys2Proof.Machine

/-! ### Refusals (R160, R161) -/

/-- An idle requester's command is refused for its own lifecycle reason where nothing else is wrong. -/
theorem State.runCommand_refused {s : State} (hr : s.cur < s.requesters.length) (hlegal : s.cfg.legal = true)
    (hq : (s.req s.cur).seq = none) {lc : Option Refusal} {why : Refusal} (hlc : lc = some why) (i : Instr) (started : State) :
    s.runCommand i lc started = .refused why := by
  simp [State.runCommand, State.admission, hr, hlegal, hq, hlc]

/-- Settles O15: the lifecycle condition of INIT fails. -/
theorem initIsRefusedUnlessAbsent : Obligations.InitIsRefusedUnlessAbsent := fun _ _ _ hr hlegal hq hlife =>
  State.runCommand_refused hr hlegal hq (if_neg hlife) _ _

/-- Settles O14: every instruction that passes its own check of its byte has the lifecycle condition Ready, DEINIT among them. -/
theorem commandsAreRefusedUnlessReady : Obligations.CommandsAreRefusedUnlessReady := by
  intro s i hr hlegal hq hw hinit hlife
  have hready : ∀ lines, s.readyCommand i lines = .refused .notReady := fun _ =>
    State.runCommand_refused hr hlegal hq (if_neg hlife) i _
  cases i with
  | init address backlightOn => exact absurd rfl (hinit address backlightOn)
  | deinit => exact State.runCommand_refused hr hlegal hq (if_neg hlife) _ _
  | setCursor row column =>
    simp only [exec, execSetCursor]
    split <;> exact hready _
  | kFunctionSet l n f x => exact (if_pos hw).trans (hready _)
  | kSetCgramAddr a => cases hw
  | _ => exact hready _

/-! ### The end of the context (R161, R162) -/

theorem State.run_closeTransport {s : State} {r n : Nat} {i : Instr} {rest : List Line} {k : Byte} {t t2 : Tick}
    (hr : r < s.requesters.length) :
    State.runLines (n + 1) r (s.withSeq r (some ⟨i, .closeTransport :: rest, k, t, t2⟩)) =
      State.runLines n r (((s.port 0 .tClose).withTransport false).withSeq r (some ⟨i, rest, k, t, t2⟩)) := by
  rw [State.runLines_at hr rfl]
  simp only [State.lineStep, State.port_withSeq, State.withTransport_withSeq, State.withSeq_withSeq]

theorem State.run_destroyLock {s : State} {r n : Nat} {i : Instr} {rest : List Line} {k : Byte} {t t2 : Tick}
    (hr : r < s.requesters.length) :
    State.runLines (n + 1) r (s.withSeq r (some ⟨i, .destroyLock :: rest, k, t, t2⟩)) =
      State.runLines n r (((s.port 0 .lDestroy).withLock false).withSeq r (some ⟨i, rest, k, t, t2⟩)) := by
  rw [State.runLines_at hr rfl]
  simp only [State.lineStep, State.port_withSeq, State.withLock_withSeq, State.withSeq_withSeq]

theorem State.returned_requesters (s : State) (r : Nat) (i : Instr) (st : Status) :
    (s.returned r i st).requesters = s.requesters := by
  obtain ⟨-, -, hreq, -⟩ := s.unchanged_returned r i st
  exact hreq

/-- The last line of a command that frees the context, of a requester that was idle before the command. -/
theorem State.run_freeContext {s : State} {r n : Nat} {i : Instr} {k : Byte} {t t2 : Tick} {st : Status}
    (hr : r < s.requesters.length) (hq : (s.req r).seq = none) :
    State.runLines (n + 1) r (s.withSeq r (some ⟨i, [.freeContext st], k, t, t2⟩)) =
      (s.withCtx Context.absent).returned r i st := by
  rw [State.runLines_at hr rfl]
  simp only [State.lineStep, State.withCtx_withSeq]
  rw [State.finish_of_idle (by exact hq)]
  refine State.runLines_idle n ((congrArg Requester.seq (State.req_congr r ?_)).trans hq)
  exact State.returned_requesters _ _ _ _

theorem Context.freed_absent : Context.absent.Freed := ⟨rfl, rfl, rfl, rfl⟩

/-- What DEINIT leaves, run alone: its arrival, lines X1 to X3, and its return. -/
def State.deinitialized (s : State) : State :=
  ((((((s.arrived .deinit).port 0 .tClose).withTransport false).port 0 .lDestroy).withLock false).withCtx
    Context.absent).returned s.cur .deinit .success

theorem State.unchanged_deinitialized (s : State) : Unchanged s s.deinitialized := by
  have hfreed : Unchanged (s.arrived .deinit) ((((((s.arrived .deinit).port 0 .tClose).withTransport false).port 0
      .lDestroy).withLock false).withCtx Context.absent) := ⟨rfl, rfl, rfl, rfl, rfl, rfl, rfl, rfl, rfl⟩
  exact (s.unchanged_arrived .deinit).trans (hfreed.trans (State.unchanged_returned _ _ _ _))

theorem exec_deinit_of_readyAlone {s : State} (h : s.readyAlone = true) : exec .deinit s = .next s.deinitialized := by
  obtain ⟨hs, hlife, -, -, howner⟩ := s.readyAlone_iff.mp h
  obtain ⟨hr, hlegal, ha, hq⟩ := s.quietStart_iff.mp hs
  have hothers : (s.requesters.eraseIdx s.cur).any (fun q => q.seq.isSome) = false := by
    simp only [State.alone, Bool.and_eq_true, List.all_eq_true] at ha
    obtain ⟨-, hquiet⟩ := ha
    refine List.any_eq_false.mpr fun q hmem => ?_
    have hidle := hquiet q hmem
    simp only [Requester.quiet, Bool.and_eq_true] at hidle
    simpa using hidle.1
  have hadm : s.admission s.unlessDeinit = none := by
    simp [State.admission, State.unlessDeinit, hr, hlegal, hlife, hothers, howner]
  have hrun : exec .deinit s = .next (State.runLines s.budget s.cur (s.arrive .deinit deinitLines)) := by
    show execDeinit s = _
    simp [execDeinit, State.runCommand, hq, hadm, ha]
  rw [hrun, show s.budget = (16 * s.cfg.stringCap + 93) + 1 + 1 + 1 from rfl, State.arrive_eq_arrived, deinitLines,
    State.run_closeTransport (by exact hr), State.run_destroyLock (by exact hr),
    State.run_freeContext (by exact hr) (by exact hq)]
  rfl

/-- DEINIT is hindered by another requester's command in progress, or by a lock that is held (R162). -/
theorem State.unlessDeinit_of_busy {s : State} (hlife : s.ctx.life = .ready)
    (hbusy : (∃ r, r ≠ s.cur ∧ r < s.requesters.length ∧ (s.req r).seq.isSome = true) ∨ s.ctx.lockOwner.isSome = true) :
    s.unlessDeinit = some .deinitWhileBusy := by
  rw [State.unlessDeinit, if_pos hlife, if_pos]
  rcases hbusy with ⟨r, hne, hr, hseq⟩ | howner
  · have hget : s.requesters[r]? = some (s.req r) := by simp [State.req, hr]
    have hmem : s.req r ∈ s.requesters.eraseIdx s.cur := List.mem_eraseIdx_iff_getElem?.mpr ⟨r, hne, hget⟩
    exact Bool.or_eq_true_iff.mpr (.inl (List.any_eq_true.mpr ⟨_, hmem, hseq⟩))
  · rw [howner, Bool.or_true]

/-- Settles O16: DEINIT runs its three lines; what it leaves is not Ready, which the second one asks for. -/
theorem deinitFreesTheContext : Obligations.DeinitFreesTheContext := by
  refine ⟨fun s h => ?alone, fun s hr hlegal hq hlife hbusy => ?busy⟩
  case alone =>
    obtain ⟨hs, -⟩ := s.readyAlone_iff.mp h
    obtain ⟨hr, hlegal, -, hq⟩ := s.quietStart_iff.mp hs
    have hu := s.unchanged_deinitialized
    have hctx : s.deinitialized.ctx = Context.absent := State.returned_ctx _ _ _ _
    have hword : (encode s.cfg .deinit).bits24 = 0x010000 := rfl
    refine ⟨_, exec_deinit_of_readyAlone h, hctx ▸ Context.freed_absent, rfl, ?events, rfl, hu, ?again⟩
    case events => simp [State.deinitialized, State.arrived, State.returned, Instr.isHost, hword]
    case again =>
      obtain ⟨hcfg, hcur, hreq, -⟩ := hu
      refine commandsAreRefusedUnlessReady _ _ ?_ (hcfg ▸ hlegal) ?_ rfl (fun _ _ => Instr.noConfusion)
        (by simp [hctx, Context.absent])
      · rwa [hcur, hreq]
      · rw [hcur, State.req_congr _ hreq, hq]
  case busy => exact State.runCommand_refused hr hlegal hq (State.unlessDeinit_of_busy hlife hbusy) _ _

/-! ### The commands that are one byte write (R163 to R168, R170) -/

/-- Settles O17: both are one byte write. -/
theorem clearAndHomeSendTheirByte : Obligations.ClearAndHomeSendTheirByte := fun _ h =>
  ⟨sendsByte_of_byteCommand h rfl rfl, sendsByte_of_byteCommand h rfl rfl⟩

/-- Settles O19: each is one byte write of its opcode with the enabled flag bits. -/
theorem flagCommandsSendTheirByte : Obligations.FlagCommandsSendTheirByte := fun _ _ _ _ h =>
  ⟨sendsByte_of_byteCommand h rfl rfl, sendsByte_of_byteCommand h rfl rfl, sendsByte_of_byteCommand h rfl rfl⟩

/-- Settles O22: WRITECHAR is one byte write of its character. -/
theorem writeCharSendsTheCharacter : Obligations.WriteCharSendsTheCharacter := fun _ _ h =>
  sendsByte_of_byteCommand h rfl rfl

/-- A command that only returns a status, run alone: it arrives and returns. -/
theorem State.readyCommand_ret {s : State} (h : s.readyAlone = true) (i : Instr) (st : Status) :
    s.readyCommand i [.ret st] = .next ((s.arrived i).returned s.cur i st) := by
  obtain ⟨hs, -⟩ := s.readyAlone_iff.mp h
  obtain ⟨hr, -, -, hq⟩ := s.quietStart_iff.mp hs
  refine (State.readyCommand_of_readyAlone h i _).trans (congrArg Host.Outcome.next ?_)
  rw [show s.budget = (16 * s.cfg.stringCap + 95) + 1 from rfl, State.arrive_eq_arrived]
  exact State.run_ret_of_idle hr hq (s.unchanged_arrived i)

/-- Settles O20: the range check decides between one byte write and a status alone. -/
theorem setCursorSendsTheAddressOrRejects : Obligations.SetCursorSendsTheAddressOrRejects := by
  refine fun s row column h => ⟨fun hrow hcolumn => ?valid, fun hout => ?invalid⟩
  case valid =>
    exact sendsByte_of_byteCommand h rfl (if_pos (by simp [cursorInRange, hrow, hcolumn]))
  case invalid =>
    have hrange : ¬ cursorInRange s.cfg row column = true := by
      simp only [cursorInRange, Bool.and_eq_true, decide_eq_true_eq]
      omega
    obtain ⟨hcfg, -⟩ := s.unchanged_arrived (.setCursor row column)
    refine ⟨_, (if_neg hrange).trans (State.readyCommand_ret h _ _), ?_, ?_, ?_, ?_,
      (s.unchanged_arrived _).trans (State.unchanged_returned _ _ _ _)⟩
    · rw [State.returned_ctx, State.arrived_ctx]
    · rw [State.returned_expander, State.arrived_expander]
    · rw [State.returned_events hcfg, State.arrived_events, List.append_assoc]
      rfl
    · rw [State.returned_writes, State.arrived_writes]

/-! ### SETBACKLIGHT (R169) -/

/-- Lines L1 to L3: the flag is stored while the lock is held. -/
def State.backlightStored (r : Nat) (enable : Bool) (s : State) : State :=
  ((((s.port 0 (.acquire r)).withOwner (some r)).withBacklight enable).port 0 (.release r)).withOwner none

theorem State.unchanged_backlightStored (s : State) (r : Nat) (enable : Bool) : Unchanged s (s.backlightStored r enable) :=
  ⟨rfl, rfl, rfl, rfl, rfl, rfl, rfl, rfl, rfl⟩

theorem State.run_storeBacklight {s : State} {r n : Nat} {i : Instr} {rest : List Line} {k : Byte} {t t2 : Tick}
    (hr : r < s.requesters.length) (hl : s.ctx.lockExists = true) (hf : s.ctx.lockOwner = none) (enable : Bool) :
    State.runLines (n + 3) r (s.withSeq r (some ⟨i, .acquire :: .storeBacklight enable :: .release :: rest, k, t, t2⟩)) =
      State.runLines n r ((s.backlightStored r enable).withSeq r (some ⟨i, rest, k, t, t2⟩)) := by
  rw [State.runLines_at hr (by simp [State.hindrance, hl, hf])]
  simp only [State.lineStep, State.port_withSeq, State.withOwner_withSeq, State.withSeq_withSeq]
  rw [State.runLines_at (by exact hr) rfl]
  simp only [State.lineStep, State.withBacklight_withSeq, State.withSeq_withSeq]
  rw [State.runLines_at (by exact hr) (by simp [State.hindrance])]
  simp only [State.lineStep, State.port_withSeq, State.withOwner_withSeq, State.withSeq_withSeq]
  rfl

theorem exec_setBacklight_of_readyAlone {s : State} (h : s.readyAlone = true) (enable : Bool) :
    exec (.setBacklight enable) s = .next
      (((s.arrived (.setBacklight enable)).backlightStored s.cur enable).returned s.cur (.setBacklight enable) .success) := by
  obtain ⟨hs, -, -, hexists, howner⟩ := s.readyAlone_iff.mp h
  obtain ⟨hr, -, -, hq⟩ := s.quietStart_iff.mp hs
  refine (State.readyCommand_of_readyAlone h _ _).trans (congrArg Host.Outcome.next ?_)
  rw [show s.budget = (16 * s.cfg.stringCap + 92) + 1 + 3 from rfl, State.arrive_eq_arrived,
    State.run_storeBacklight (by exact hr) (by simpa using hexists) (by simpa using howner)]
  exact State.run_ret_of_idle hr hq ((s.unchanged_arrived _).trans (State.unchanged_backlightStored _ _ _))

/-- Settles O28: the three lines and the return, between which nothing is sent. -/
theorem setBacklightStoresTheFlag : Obligations.SetBacklightStoresTheFlag := by
  intro s enable h
  obtain ⟨-, -, -, -, howner⟩ := s.readyAlone_iff.mp h
  have hu := (s.unchanged_arrived (.setBacklight enable)).trans (State.unchanged_backlightStored _ s.cur enable)
  refine ⟨_, exec_setBacklight_of_readyAlone h enable, ?_, rfl, ?_, rfl, hu.trans (State.unchanged_returned _ _ _ _)⟩
  · simp [State.backlightStored, ← howner]
  · simp [State.backlightStored, State.arrived, State.returned, Instr.isHost]

/-- Whether a requester may run alone on a Ready context does not hang on the backlight flag. -/
theorem State.readyAlone_of_backlight {s t : State} (h : s.readyAlone = true) (hu : Unchanged s t) {enable : Bool}
    (hctx : t.ctx = { s.ctx with backlightOn := enable }) : t.readyAlone = true := by
  obtain ⟨hcfg, hcur, hreq, -, hagenda, -, -, -, hgrain⟩ := hu
  simpa only [State.readyAlone, State.quietStart, State.alone, State.req, hcfg, hcur, hreq, hagenda, hgrain, hctx] using h

/-- Settles O29: SETBACKLIGHT leaves the requester alone on a Ready context with the new flag, which the next byte write shows. -/
theorem backlightTakesEffectOnTheNextByte : Obligations.BacklightTakesEffectOnTheNextByte := by
  intro s enable i isData b d ws h hb hw
  obtain ⟨t, ht, hctx, -, hevents, hwrites, hu⟩ := setBacklightStoresTheFlag s enable h
  have hcfg : t.cfg = s.cfg := hu.1
  have hsilent : attemptsOf t.events = attemptsOf s.events := by
    rw [hevents, attemptsOf_append]
    exact List.append_nil _
  obtain ⟨u, hu', hsent⟩ := State.byteCommand_sends (State.readyAlone_of_backlight h hu hctx) (hwrites.trans hw) i isData b d
  refine ⟨t, u, ht, (exec_of_byteOf (hcfg ▸ hb)).trans hu', hsilent, ?_⟩
  rw [hsent.attempts, hsilent, hcfg, hctx]

end Sys2Proof.Machine
end

section
/-! PROOF. INIT (spec/43_command_api.md R161) where the reset sequence does not fail: its failures before it, each with its unwinding,
and its success, in which the 22 raw writes of spec/40_reset_sequencer.md R101 are those of three bare nibbles and four byte writes. -/

namespace Sys2Proof.Machine

/-! ### INIT before the reset sequence (R161 lines I1 to I4) -/

/-- INIT has arrived and the context is being constructed. -/
def State.initStarted (address : Byte) (backlightOn : Bool) (s : State) : State :=
  (s.arrived (.init address backlightOn)).withLife .constructing

theorem State.run_alloc_fail {s : State} {r n : Nat} {i : Instr} {rest : List Line} {k : Byte} {t t2 : Tick}
    (hr : r < s.requesters.length) (hq : (s.req r).seq = none) (hfail : s.env.nextAlloc = false) :
    State.runLines (n + 2) r (s.withSeq r (some ⟨i, .alloc :: rest, k, t, t2⟩)) =
      (s.alloc.withCtx Context.absent).returned r i .allocationFailure := by
  have halloc : ∀ x, (s.withSeq r x).alloc = s.alloc.withSeq r x := fun _ => rfl
  rw [State.runLines_at hr rfl]
  simp only [State.lineStep, halloc, State.withSeq_withSeq, State.withSeq_env, hfail, Bool.false_eq_true, if_false]
  exact State.run_freeContext hr hq

theorem State.run_openTransport_fail {s : State} {r n : Nat} {i : Instr} {rest : List Line} {k : Byte} {t t2 : Tick}
    (hr : r < s.requesters.length) (hq : (s.req r).seq = none) (hfail : s.env.nextOpen = false) :
    State.runLines (n + 2) r (s.withSeq r (some ⟨i, .openTransport :: rest, k, t, t2⟩)) =
      ((s.tOpen (s.req r).side).withCtx Context.absent).returned r i .backendOpenFailure := by
  have hopen : ∀ x side, (s.withSeq r x).tOpen side = (s.tOpen side).withSeq r x := fun _ _ => rfl
  rw [State.runLines_at hr rfl]
  simp only [State.lineStep, State.req_withSeq_same _ _ hr, hopen, State.withSeq_withSeq, State.withSeq_env, hfail,
    Bool.false_eq_true, if_false]
  exact State.run_freeContext hr hq

theorem State.run_createLock_fail {s : State} {r n : Nat} {i : Instr} {rest : List Line} {k : Byte} {t t2 : Tick}
    (hr : r < s.requesters.length) (hq : (s.req r).seq = none) (hfail : s.env.nextCreate = false) :
    State.runLines (n + 3) r (s.withSeq r (some ⟨i, .createLock :: rest, k, t, t2⟩)) =
      (((s.lCreate.port 0 .tClose).withTransport false).withCtx Context.absent).returned r i .allocationFailure := by
  have hcreate : ∀ x, (s.withSeq r x).lCreate = s.lCreate.withSeq r x := fun _ => rfl
  rw [State.runLines_at hr rfl]
  simp only [State.lineStep, hcreate, State.withSeq_withSeq, State.withSeq_env, hfail, Bool.false_eq_true, if_false]
  rw [State.run_closeTransport (by exact hr)]
  exact State.run_freeContext hr hq

/-- INIT admitted alone, with its first four lines written out. -/
theorem exec_init_eq_run {s : State} (h : s.absentAlone = true) (address : Byte) (backlightOn : Bool) :
    exec (.init address backlightOn) s = .next (State.runLines (16 * s.cfg.stringCap + 96) s.cur
      ((s.initStarted address backlightOn).withSeq s.cur (some ⟨.init address backlightOn, .alloc ::
        .fillDefaults address backlightOn :: .openTransport :: .createLock :: (resetLines s.cfg ++ [.becomeReady]), 0, 0, 0⟩))) :=
  exec_init_of_absentAlone h address backlightOn

/-- The display, host memory and the requesters are as in `s`, and the port events `es` have been added. -/
structure Spares (s u : State) (es : List Event) : Prop where
  cfg : u.cfg = s.cfg
  requesters : u.requesters = s.requesters
  mem : u.mem = s.mem
  expander : u.expander = s.expander
  events : u.events = s.events ++ es

/-- A command that has freed the context and returned spared the display if it did so before. -/
theorem Spares.freed {s u : State} {es : List Event} (h : Spares s u es) {i : Instr} (hi : i.isHost = true) (st : Status) :
    ((u.withCtx Context.absent).returned s.cur i st).ctx.Freed ∧
      Spares s ((u.withCtx Context.absent).returned s.cur i st) (es ++ [.status s.cur (st.code s.cfg)]) := by
  obtain ⟨hcfg, hreq, hmem, hexp, hevents⟩ := h
  obtain ⟨hcfg', -, hreq', hmem', -⟩ := (u.withCtx Context.absent).unchanged_returned s.cur i st
  have hctx : ((u.withCtx Context.absent).returned s.cur i st).ctx = Context.absent := State.returned_ctx _ _ _ _
  refine ⟨by rw [hctx]; exact Context.freed_absent, hcfg'.trans hcfg, hreq'.trans hreq, hmem'.trans hmem,
    (State.returned_expander _ _ _ _).trans hexp, ?_⟩
  rw [State.returned_events (u := u.withCtx Context.absent) hcfg, State.withCtx_events, hevents, statusEvents, if_pos hi,
    List.append_assoc]

/-- Settles O12: each failing answer ends INIT with the unwinding of its line. -/
theorem initUnwindsEarlyFailures : Obligations.InitUnwindsEarlyFailures := by
  intro s address backlightOn h
  have hx := exec_init_eq_run h address backlightOn
  obtain ⟨hr, hq⟩ := State.idle_of_absentAlone h
  have hcmd : (Instr.init address backlightOn).isHost = true := rfl
  refine ⟨fun halloc => ?allocFails, fun halloc hopen => ?openFails, fun halloc hopen hcreate => ?createFails⟩
  case allocFails =>
    rw [State.run_alloc_fail (by exact hr) (by exact hq) (by simp [State.initStarted, State.arrived, hcmd, Env.nextAlloc, halloc])]
      at hx
    have hspares : Spares s (s.initStarted address backlightOn).alloc
        [.cmd s.cur (encode s.cfg (.init address backlightOn)).bits24 (s.req s.cur).side, .alloc false] := by
      constructor <;> simp [State.initStarted, State.alloc, State.arrived, hcmd, Env.nextAlloc, halloc]
    obtain ⟨hfreed, -, hreq, hmem, hexp, hevents⟩ := hspares.freed hcmd .allocationFailure
    exact ⟨_, hx, hfreed, hexp, hevents, hreq, hmem⟩
  case openFails =>
    rw [State.run_alloc (by exact hr) (by simp [State.initStarted, State.arrived, hcmd, Env.nextAlloc, halloc]),
      State.run_fillDefaults (by exact hr),
      State.run_openTransport_fail (by exact hr) (by exact hq)
        (by simp [State.initStarted, State.arrived, State.alloc, hcmd, Env.nextOpen, hopen])] at hx
    have hspares : Spares s (((s.initStarted address backlightOn).alloc.withDefaults address backlightOn).tOpen (s.req s.cur).side)
        [.cmd s.cur (encode s.cfg (.init address backlightOn)).bits24 (s.req s.cur).side, .alloc true,
          .tOpen (busAddress address) s.cfg.i2cSpeed s.cfg.i2cTimeoutMs (s.req s.cur).side false] := by
      constructor <;> simp [State.initStarted, State.alloc, State.tOpen, State.arrived, hcmd, Env.nextAlloc, Env.nextOpen, halloc,
        hopen]
    obtain ⟨hfreed, -, hreq, hmem, hexp, hevents⟩ := hspares.freed hcmd .backendOpenFailure
    exact ⟨_, hx, hfreed, hexp, hevents, hreq, hmem⟩
  case createFails =>
    rw [State.run_alloc (by exact hr) (by simp [State.initStarted, State.arrived, hcmd, Env.nextAlloc, halloc]),
      State.run_fillDefaults (by exact hr),
      State.run_openTransport (by exact hr) (by simp [State.initStarted, State.arrived, State.alloc, hcmd, Env.nextOpen, hopen]),
      State.run_createLock_fail (by exact hr) (by exact hq)
        (by simp [State.initStarted, State.arrived, State.alloc, State.tOpen, hcmd, Env.nextCreate, hcreate])] at hx
    have hspares : Spares s ((((((s.initStarted address backlightOn).alloc.withDefaults address backlightOn).tOpen
          (s.req s.cur).side).withTransport true).lCreate.port 0 .tClose).withTransport false)
        [.cmd s.cur (encode s.cfg (.init address backlightOn)).bits24 (s.req s.cur).side, .alloc true,
          .tOpen (busAddress address) s.cfg.i2cSpeed s.cfg.i2cTimeoutMs (s.req s.cur).side true, .lCreate false, .tClose] := by
      constructor <;> simp [State.initStarted, State.alloc, State.tOpen, State.lCreate, State.arrived, hcmd, Env.nextAlloc,
        Env.nextOpen, Env.nextCreate, halloc, hopen, hcreate]
    obtain ⟨hfreed, -, hreq, hmem, hexp, hevents⟩ := hspares.freed hcmd .allocationFailure
    exact ⟨_, hx, hfreed, hexp, hevents, hreq, hmem⟩

/-! ### Steps S1 to S4: three bare nibbles (R101) -/

/-- From `s` to `u` the port events `es` are added; the context and the frame of every command stay. -/
structure Emits (s u : State) (es : List Event) : Prop where
  frame : Unchanged s u
  ctx : u.ctx = s.ctx
  events : u.events = s.events ++ es

theorem Emits.trans {s t u : State} {es es' : List Event} (h : Emits s t es) (h' : Emits t u es') : Emits s u (es ++ es') :=
  ⟨h.frame.trans h'.frame, h'.ctx.trans h.ctx, by rw [h'.events, h.events, List.append_assoc]⟩

theorem State.emits_delay (s : State) (d : Tick) : Emits s (s.delay d) [.delay d] :=
  ⟨s.unchanged_port _ _, rfl, s.delay_events d⟩

theorem Unchanged.refl (s : State) : Unchanged s s := ⟨rfl, rfl, rfl, rfl, rfl, rfl, rfl, rfl, rfl⟩

/-- Whether a requester may send does not hang on the tick. -/
theorem Sendable.congr {c : Config} {backlight : Bool} {r : Nat} {s u : State} (h : Sendable c backlight r s) (hu : Unchanged s u)
    {tick : Tick} (hctx : u.ctx = { s.ctx with nextReadyTick := tick }) : Sendable c backlight r u := by
  obtain ⟨hcfg, -, hreq, -⟩ := hu
  exact ⟨hreq ▸ h.requester, hcfg.trans h.cfg, by rw [hctx, h.backlight], by rw [hctx, h.opened], by rw [hctx, h.locked],
    by rw [hctx, h.free]⟩

theorem Sendable.emits {c : Config} {backlight : Bool} {r : Nat} {s u : State} {es : List Event} (h : Sendable c backlight r s)
    (he : Emits s u es) : Sendable c backlight r u :=
  h.congr he.frame he.ctx

/-- The port events of a bare nibble and the delay after it (R122). -/
def bareNibbleEvents (c : Config) (backlight : Bool) (n : Nibble) (after : Tick) : List Event :=
  [.tWrite (nibbleInPlace n ||| controlNibble c backlight false ||| c.enBit) true, .delay c.enablePulse,
   .tWrite (nibbleInPlace n ||| controlNibble c backlight false) true, .delay after]

theorem State.nibbleSent_withSeq (s : State) (r : Nat) (x : Option Progress) (n : Nibble) (ctl : Byte) :
    (s.withSeq r x).nibbleSent n ctl = (s.nibbleSent n ctl).withSeq r x := by
  simp only [State.nibbleSent, State.withSeq_cfg, State.tWrite_withSeq, State.delay_withSeq]

/-- The lines of a bare nibble in one, when both raw writes answer `ok`. -/
theorem State.run_bareNibble {s : State} {r m : Nat} {i : Instr} {rest : List Line} {k : Byte} {t t2 after : Tick} {n : Nibble}
    {l : List WriteAnswer} (hr : r < s.requesters.length) (hopen : s.ctx.transportOpen = true)
    (hw : s.env.writes = .ok :: .ok :: l) :
    State.runLines (m + 4) r (s.withSeq r (some ⟨i, bareNibbleLines s.cfg n after ++ rest, k, t, t2⟩)) =
      State.runLines m r (((s.nibbleSent n k).delay after).withSeq r (some ⟨i, rest, k, t, t2⟩)) := by
  have hseq : ((s.withSeq r (some ⟨i, bareNibbleLines s.cfg n after ++ rest, k, t, t2⟩)).req r).seq =
      some ⟨i, bareNibbleLines s.cfg n after ++ rest, k, t, t2⟩ := by rw [State.req_withSeq_same _ _ hr]
  obtain ⟨-, -, hreq, -⟩ := s.unchanged_nibbleSent n k
  rw [Nat.add_comm m 4, show 4 + m = 3 + (m + 1) by omega, State.runLines_add, State.run_nibble hseq hopen hw,
    State.nibbleSent_withSeq, State.withSeq_withSeq]
  simp only [WriteAnswer.isOk, if_true]
  exact State.run_delay (by rwa [hreq])

/-- When both raw writes answer `ok`, the lines of a bare nibble emit its events. -/
theorem Sendable.bareNibble {c : Config} {backlight : Bool} {r : Nat} {s : State} {l : List WriteAnswer}
    (h : Sendable c backlight r s) (hw : s.env.writes = .ok :: .ok :: l) (i : Instr) (n : Nibble) (after : Tick) :
    ∃ u, Emits s u (bareNibbleEvents c backlight n after) ∧ u.env.writes = l ∧
      ∀ rest, RunsTo 4 r i (controlNibble c backlight false) s (bareNibbleLines c n after ++ rest) u rest := by
  obtain ⟨hr, rfl, rfl, hopen, -, -⟩ := h
  have hsent : Emits s (s.nibbleSent n (controlNibble s.cfg s.ctx.backlightOn false)) _ :=
    ⟨s.unchanged_nibbleSent n _, s.nibbleSent_ctx n _, State.nibbleSent_events hw n _⟩
  refine ⟨_, hsent.trans (State.emits_delay _ after), by simp [State.nibbleSent, hw],
    fun rest t t2 => ⟨t, t2, fun m => State.run_bareNibble hr hopen hw⟩⟩

/-- The lines of steps S1 to S4 after the control nibble. -/
def resetNibbleLines (c : Config) : List Line :=
  .delay c.powerOnDelay :: (bareNibbleLines c 3 c.initDelay1 ++ (bareNibbleLines c 3 c.initDelay2 ++
    bareNibbleLines c 2 c.enableSettle))

/-- The port events of steps S1 to S4 when nothing fails. -/
def resetNibbleEvents (c : Config) (backlight : Bool) : List Event :=
  .delay c.powerOnDelay :: (bareNibbleEvents c backlight 3 c.initDelay1 ++ (bareNibbleEvents c backlight 3 c.initDelay2 ++
    bareNibbleEvents c backlight 2 c.enableSettle))

/-- They make the first six raw writes of RESETSEQ. -/
theorem traffic_resetNibbleEvents (c : Config) (backlight : Bool) :
    Traffic (resetNibbleEvents c backlight) ((resetWires c backlight).take 6) ((resetWires c backlight).take 6) [] [] :=
  ⟨rfl, rfl, rfl, rfl⟩

theorem delaysOf_resetNibbleEvents (c : Config) (backlight : Bool) : delaysOf (resetNibbleEvents c backlight) =
    [c.powerOnDelay, c.enablePulse, c.initDelay1, c.enablePulse, c.initDelay2, c.enablePulse, c.enableSettle] := rfl

/-- When all six raw writes answer `ok`, those lines emit those events. -/
theorem Sendable.resetNibbles {c : Config} {backlight : Bool} {r : Nat} {s : State} {l : List WriteAnswer}
    (h : Sendable c backlight r s) (hw : s.env.writes = List.replicate 6 .ok ++ l) (i : Instr) :
    ∃ u, Emits s u (resetNibbleEvents c backlight) ∧ u.env.writes = l ∧
      ∀ rest, RunsTo 13 r i (controlNibble c backlight false) s (resetNibbleLines c ++ rest) u rest := by
  have h0 := h.emits (s.emits_delay c.powerOnDelay)
  obtain ⟨s1, he1, hw1, hrun1⟩ := h0.bareNibble hw i 3 c.initDelay1
  obtain ⟨s2, he2, hw2, hrun2⟩ := (h0.emits he1).bareNibble hw1 i 3 c.initDelay2
  obtain ⟨s3, he3, hw3, hrun3⟩ := ((h0.emits he1).emits he2).bareNibble hw2 i 2 c.enableSettle
  have hdelay : ∀ ls, RunsTo 1 r i (controlNibble c backlight false) s (.delay c.powerOnDelay :: ls) (s.delay c.powerOnDelay) ls :=
    fun ls t t2 => ⟨t, t2, fun _ => State.run_delay h.requester⟩
  refine ⟨s3, (s.emits_delay c.powerOnDelay).trans (he1.trans (he2.trans he3)), hw3, fun rest => ?_⟩
  simp only [resetNibbleLines, List.cons_append, List.append_assoc]
  exact (hdelay _).trans ((hrun1 _).trans ((hrun2 _).trans (hrun3 rest)))

/-! ### What stretches of lines send, in how many lock holds -/

theorem readsOf_append (es fs : List Event) : readsOf (es ++ fs) = readsOf es ++ readsOf fs := List.filterMap_append

theorem statusesOf_append (es fs : List Event) : statusesOf (es ++ fs) = statusesOf es ++ statusesOf fs :=
  List.filterMap_append

/-- The events neither read string memory nor return a status. -/
def Silent (es : List Event) : Prop := readsOf es = [] ∧ statusesOf es = []

theorem Silent.append {es fs : List Event} (h : Silent es) (h' : Silent fs) : Silent (es ++ fs) := by
  obtain ⟨hreads, hstatuses⟩ := h
  obtain ⟨hreads', hstatuses'⟩ := h'
  exact ⟨by rw [readsOf_append, hreads, hreads']; rfl, by rw [statusesOf_append, hstatuses, hstatuses']; rfl⟩

theorem silent_waitEvents (s : State) (now : Tick) : Silent (waitEvents s now) := by
  unfold waitEvents
  split <;> exact ⟨rfl, rfl⟩

/-- From `s` to `u` the raw writes `tried` are attempted and `written` of them answer `ok`, string memory is read at `reads`, requester
`r` acquires and releases the lock `holds` times, no status is returned, and of the context only the tick moves. -/
structure LockedSends (r : Nat) (tried written : List Byte) (reads : List (BitVec 16)) (holds : Nat) (s u : State) : Prop where
  frame : Unchanged s u
  ctx : u.ctx = { s.ctx with nextReadyTick := u.ctx.nextReadyTick }
  events : ∃ es, u.events = s.events ++ es ∧ Traffic es tried written (List.replicate holds r) (List.replicate holds r) ∧
    readsOf es = reads ∧ statusesOf es = []

theorem LockedSends.trans {r : Nat} {tried written tried' written' : List Byte} {reads reads' : List (BitVec 16)} {holds holds' : Nat}
    {s t u : State} (h : LockedSends r tried written reads holds s t) (h' : LockedSends r tried' written' reads' holds' t u) :
    LockedSends r (tried ++ tried') (written ++ written') (reads ++ reads') (holds + holds') s u := by
  obtain ⟨hframe, hctx, es, hes, htraffic, hreads, hstatuses⟩ := h
  obtain ⟨hframe', hctx', es', hes', htraffic', hreads', hstatuses'⟩ := h'
  refine ⟨hframe.trans hframe', by rw [hctx', hctx], es ++ es', by rw [hes', hes, List.append_assoc], ?_,
    by rw [readsOf_append, hreads, hreads'], by rw [statusesOf_append, hstatuses, hstatuses', List.append_nil]⟩
  simp only [List.replicate_add]
  exact htraffic.append htraffic'

theorem LockedSends.sendable {c : Config} {backlight : Bool} {r : Nat} {tried written : List Byte} {reads : List (BitVec 16)}
    {holds : Nat} {s u : State} (h : LockedSends r tried written reads holds s u) (hs : Sendable c backlight r s) :
    Sendable c backlight r u :=
  hs.congr h.frame h.ctx

theorem LockedSends.refl (r : Nat) (s : State) : LockedSends r [] [] [] 0 s s :=
  ⟨.refl s, rfl, [], (List.append_nil _).symm, ⟨rfl, rfl, rfl, rfl⟩, rfl, rfl⟩

/-! ### Steps S5 to S8: four byte writes (R101) -/

/-- A byte write of `b` by requester `r` from `s` to `u` in which nothing fails: the events `es`, RECORD's reading of the clock at `c2`,
and the release of the lock (R123). -/
structure ByteWritten (c : Config) (backlight : Bool) (r : Nat) (isData : Bool) (b : Byte) (d : Tick) (c2 : Nat) (es : List Event)
    (s u : State) : Prop where
  frame : Unchanged s u
  ctx : u.ctx = { s.ctx with nextReadyTick := BitVec.ofNat 64 c2 + umax c.settleFloor d }
  after : s.env.clock ≤ c2
  before : c2 ≤ u.env.clock
  events : u.events = s.events ++ (es ++ [.now (BitVec.ofNat 64 c2), .release r])
  traffic : Traffic es (wireBytes c backlight isData b) (wireBytes c backlight isData b) [r] []
  expander : u.expander = lowerInPlace b ||| controlNibble c backlight isData
  silent : Silent es
  writes : u.env.writes = s.env.writes.drop 4

theorem Sendable.byteWritten {c : Config} {backlight : Bool} {r : Nat} {s : State} {ws : List WriteAnswer}
    (h : Sendable c backlight r s) (hw : s.env.writes = .ok :: .ok :: .ok :: .ok :: ws) (isData : Bool) (b : Byte) (d : Tick) :
    ∃ c2 es, ByteWritten c backlight r isData b d c2 es s (s.byteDone r isData b d) := by
  obtain ⟨-, rfl, rfl, -, -, hfree⟩ := h
  have hstart : Traffic [.acquire r, .now (s.byteNow r)] [] [] [r] [] := ⟨rfl, rfl, rfl, rfl⟩
  have hsilent : Silent [.acquire r, .now (s.byteNow r)] := ⟨rfl, rfl⟩
  have hclock := s.waitClock_le_doneClock r isData b
  refine ⟨s.doneClock r isData b, _, s.unchanged_byteDone r isData b d, by rw [State.byteDone_ctx, ← hfree],
    (s.clock_le_waitClock r).trans (by omega), State.recordClock_le_byteEnd _ _ _, ?_,
    (hstart.append (traffic_waitEvents s (s.byteNow r))).append (traffic_transferEvents _ _ isData b),
    State.byteDone_expander hw r isData b d, (hsilent.append (silent_waitEvents s _)).append ⟨rfl, rfl⟩,
    s.byteDone_writes r isData b d⟩
  rw [State.byteDone_events hw]
  simp only [List.append_assoc]

/-- With its end the byte write is one lock hold. -/
theorem ByteWritten.lockedSends {c : Config} {backlight : Bool} {r : Nat} {isData : Bool} {b : Byte} {d : Tick} {c2 : Nat}
    {es : List Event} {s u : State} (h : ByteWritten c backlight r isData b d c2 es s u) :
    LockedSends r (wireBytes c backlight isData b) (wireBytes c backlight isData b) [] 1 s u := by
  have hend : Traffic [.now (BitVec.ofNat 64 c2), .release r] [] [] [] [r] := ⟨rfl, rfl, rfl, rfl⟩
  have hctx : u.ctx = { s.ctx with nextReadyTick := u.ctx.nextReadyTick } := by rw [h.ctx]
  exact ⟨h.frame, hctx, _, h.events, by simpa using h.traffic.append hend, h.silent.append ⟨rfl, rfl⟩⟩

/-- The lines of a command byte are one byte write when nothing fails. -/
theorem Sendable.runsTo_byte {c : Config} {backlight : Bool} {r : Nat} {s : State} {ws : List WriteAnswer}
    (h : Sendable c backlight r s) (hw : s.env.writes = .ok :: .ok :: .ok :: .ok :: ws) (i : Instr) (b : Byte) (d : Tick)
    (rest : List Line) :
    RunsTo 14 r i (controlNibble c backlight false) s (byteLines c false b d ++ rest) (s.byteDone r false b d) rest := by
  obtain ⟨hr, rfl, rfl, hopen, hlock, hfree⟩ := h
  exact fun t t2 => ⟨_, _, fun n => State.run_byte_ok hr hlock hfree hopen hw⟩

/-- Byte writes of the bytes and delays of a list, one after the other, in which nothing fails. -/
theorem Sendable.bytes {c : Config} {backlight : Bool} {r : Nat} {l : List WriteAnswer} (i : Instr) (bs : List (Byte × Tick))
    {s : State} (h : Sendable c backlight r s) (hw : s.env.writes = List.replicate (4 * bs.length) .ok ++ l) :
    ∃ u, LockedSends r (bs.flatMap fun p => wireBytes c backlight false p.1) (bs.flatMap fun p => wireBytes c backlight false p.1) []
        bs.length s u ∧ u.env.writes = l ∧
      ∀ rest, RunsTo (14 * bs.length) r i (controlNibble c backlight false) s
        ((bs.flatMap fun p => byteLines c false p.1 p.2) ++ rest) u rest := by
  induction bs generalizing s with
  | nil =>
    exact ⟨s, .refl r s, hw, fun rest t t2 => ⟨t, t2, fun n => rfl⟩⟩
  | cons p bs ih =>
    have hw4 : s.env.writes = .ok :: .ok :: .ok :: .ok :: (List.replicate (4 * bs.length) .ok ++ l) := hw
    obtain ⟨c2, es, hbyte⟩ := h.byteWritten hw4 false p.1 p.2
    obtain ⟨u, hu, hwu, hrun⟩ := ih (hbyte.lockedSends.sendable h) (by rw [hbyte.writes, hw4]; rfl)
    refine ⟨u, ?_, hwu, fun rest => ?_⟩
    · rw [List.length_cons, Nat.add_comm]
      exact hbyte.lockedSends.trans hu
    · rw [List.length_cons, Nat.mul_succ, Nat.add_comm, List.flatMap_cons, List.append_assoc]
      exact (h.runsTo_byte hw4 i p.1 p.2 _).trans (hrun rest)

/-! ### INIT as a whole (R161, R251) -/

/-- Lines of a run let the clock only go on. -/
theorem RunsTo.clock_le {m r : Nat} {i : Instr} {ctl : Byte} {s u : State} {ls ls' : List Line}
    (h : RunsTo m r i ctl s ls u ls') : s.env.clock ≤ u.env.clock := by
  obtain ⟨t, t2, hrun⟩ := h 0 0
  have hlapse := State.lapses_runLines (0 + m) r (s.withSeq r (some ⟨i, ls, ctl, 0, 0⟩))
  rw [hrun 0] at hlapse
  exact hlapse.clock

theorem State.initOpened_clock (s : State) (address : Byte) (backlightOn : Bool) :
    s.env.clock ≤ (s.initOpened address backlightOn).env.clock := by
  have harrived := s.arrived_clock (.init address backlightOn)
  simp only [State.initOpened, State.lCreate, State.tOpen, State.alloc, State.withLock_env, State.withTransport_env, State.port_env,
    State.withEnv_env, State.withDefaults_env, State.withLife_env, Env.tick_clock, Env.popCreate_clock, Env.popOpen_clock,
    Env.popAlloc_clock]
  omega

theorem State.initOpened_cur (s : State) (address : Byte) (backlightOn : Bool) :
    (s.initOpened address backlightOn).cur = s.cur := by
  obtain ⟨-, hcur, -⟩ := s.unchanged_arrived (.init address backlightOn)
  exact hcur

/-- The last line of INIT, of a requester that was idle before it. -/
theorem State.run_becomeReady {s : State} {r n : Nat} {i : Instr} {k : Byte} {t t2 : Tick} (hr : r < s.requesters.length)
    (hq : (s.req r).seq = none) :
    State.runLines (n + 1) r (s.withSeq r (some ⟨i, [.becomeReady], k, t, t2⟩)) = (s.withLife .ready).returned r i .success := by
  rw [State.runLines_at hr rfl]
  simp only [State.lineStep, State.withLife_withSeq]
  rw [State.finish_of_idle (by exact hq)]
  refine State.runLines_idle n ((congrArg Requester.seq (State.req_congr r ?_)).trans hq)
  exact State.returned_requesters _ _ _ _

/-- The commands of steps S5 to S7 with their delays. -/
def resetFirstBytes (c : Config) : List (Byte × Tick) :=
  [(c.cmdFunctionSet ||| c.fs2Line, c.delayFunctionSet), (c.cmdDisplayControl ||| c.dcDisplay, c.delayDisplayControl),
    (c.cmdClear, c.delayClear)]

/-- With the last byte they make the other sixteen raw writes of RESETSEQ. -/
theorem resetWires_drop (c : Config) (backlight : Bool) :
    ((resetFirstBytes c).flatMap fun p => wireBytes c backlight false p.1) ++
      wireBytes c backlight false (c.cmdEntryMode ||| c.emIncrement) = (resetWires c backlight).drop 6 := rfl

/-- The lines of RESETSEQ after its control nibble: bare nibbles, three bytes and the last byte. -/
theorem resetLines_tail_append (c : Config) (rest : List Line) :
    (resetLines c).tail ++ rest = resetNibbleLines c ++ (((resetFirstBytes c).flatMap fun p => byteLines c false p.1 p.2) ++
      (byteLines c false (c.cmdEntryMode ||| c.emIncrement) c.delayEntryMode ++ rest)) := by
  simp only [resetFirstBytes, ← functionSetByte_emitted, ← displayControlByte_on, ← entryModeByte_increment]
  rfl

/-- INIT run alone with every answer `ok`: from `initOpened` on RESETSEQ transfers its bare nibbles, then three bytes, then the last
byte, from `u` to `w`; and the context becomes Ready. -/
theorem exec_init_succeeds {s : State} {ws : List WriteAnswer} (h : s.absentAlone = true) (hanswers : AnswersInit s)
    (hw : s.env.writes = List.replicate 22 .ok ++ ws) (address : Byte) (backlightOn : Bool) :
    ∃ v u w c2 es, Emits (s.initOpened address backlightOn) v (resetNibbleEvents s.cfg backlightOn) ∧
      LockedSends s.cur ((resetFirstBytes s.cfg).flatMap fun p => wireBytes s.cfg backlightOn false p.1)
        ((resetFirstBytes s.cfg).flatMap fun p => wireBytes s.cfg backlightOn false p.1) [] 3 v u ∧ s.env.clock ≤ u.env.clock ∧
      ByteWritten s.cfg backlightOn s.cur false (s.cfg.cmdEntryMode ||| s.cfg.emIncrement) s.cfg.delayEntryMode c2 es u w ∧
      w.env.writes = ws ∧
      exec (.init address backlightOn) s = .next ((w.withLife .ready).returned s.cur (.init address backlightOn) .success) := by
  have hx := exec_init_of_absentAlone h address backlightOn
  obtain ⟨hr, hq⟩ := State.idle_of_absentAlone h
  obtain ⟨-, hreq, -, -, hwrites⟩ := s.initOpened_kept address backlightOn
  have hopened := State.sendable_initOpened hr address backlightOn
  obtain ⟨v, hv, hwv, hrunv⟩ := hopened.resetNibbles (l := List.replicate 16 .ok ++ ws) (hwrites.trans hw) (.init address backlightOn)
  obtain ⟨u, hu, hwu, hrunu⟩ := (hopened.emits hv).bytes (l := .ok :: .ok :: .ok :: .ok :: ws) (.init address backlightOn)
    (resetFirstBytes s.cfg) hwv
  have hsend := hu.sendable (hopened.emits hv)
  obtain ⟨c2, es, hbyte⟩ := hsend.byteWritten hwu false (s.cfg.cmdEntryMode ||| s.cfg.emIncrement) s.cfg.delayEntryMode
  obtain ⟨t, t2, hrun⟩ := (hrunv _).trans ((hrunu _).trans (hsend.runsTo_byte hwu (.init address backlightOn)
    (s.cfg.cmdEntryMode ||| s.cfg.emIncrement) s.cfg.delayEntryMode [.becomeReady])) 0 0
  obtain ⟨-, -, hreqw, -⟩ := hv.frame.trans (hu.frame.trans hbyte.frame)
  refine ⟨v, u, _, c2, es, hv, hu, ?clock, hbyte, by rw [hbyte.writes, hwu]; rfl, ?run⟩
  case clock => exact (s.initOpened_clock address backlightOn).trans ((hrunv []).clock_le.trans (hrunu []).clock_le)
  case run =>
    rw [hx, show s.budget = (16 * s.cfg.stringCap + 21) + 1 + (13 + (42 + 14)) + 5 from rfl, State.run_initOpening hr hanswers,
      resetLines_tail_append]
    refine congrArg Host.Outcome.next ((hrun _).trans ?_)
    exact State.run_becomeReady (by rwa [hreqw, hreq]) (by rw [State.req_congr s.cur (hreqw.trans hreq), hq])

/-- Settles O11: the bare nibbles are `early`; the three first bytes and the last one up to RECORD's reading are `late`. -/
theorem initConstructsTheContext : Obligations.InitConstructsTheContext := by
  intro s address backlightOn ws h halloc hopen hcreate hw
  have hanswers : AnswersInit s := ⟨halloc, hopen, hcreate⟩
  obtain ⟨v, u, w, c2, last, hv, hu, hclock, hbyte, hww, hx⟩ := exec_init_succeeds h hanswers hw address backlightOn
  obtain ⟨hcfgw, hcurw, hreqw, hmemw, -⟩ := hv.frame.trans (hu.frame.trans hbyte.frame)
  obtain ⟨hcfg0, hreq0, hmem0, -⟩ := s.initOpened_kept address backlightOn
  obtain ⟨hcfgt, hcurt, hreqt, hmemt, -⟩ := (w.withLife .ready).unchanged_returned s.cur (.init address backlightOn) .success
  obtain ⟨htried, hwritten, -, -⟩ := traffic_resetNibbleEvents s.cfg backlightOn
  obtain ⟨-, hctx, es, hes, htraffic, -⟩ := hu
  have hlate := htraffic.append hbyte.traffic
  rw [resetWires_drop] at hlate
  refine ⟨_, c2, resetNibbleEvents s.cfg backlightOn, es ++ last, hx, ?ctx, hclock.trans hbyte.after, ?upper, ?events, htried,
    hwritten, delaysOf_resetNibbleEvents _ _, hlate.tried, hlate.written, hlate.acquired, hlate.released, ?expander,
    hreqt.trans (hreqw.trans hreq0), hmemt.trans (hmemw.trans hmem0), hcfgt.trans (hcfgw.trans hcfg0),
    hcurt.trans (hcurw.trans (s.initOpened_cur address backlightOn)), ?writes⟩
  case ctx => rw [State.returned_ctx, State.withLife_ctx, hbyte.ctx, hctx, hv.ctx, State.initOpened_ctx]
  case upper => exact hbyte.before.trans ((w.withLife .ready).returned_clock s.cur (.init address backlightOn) .success)
  case events =>
    rw [State.returned_events (u := w.withLife .ready) (hcfgw.trans hcfg0), State.withLife_events, hbyte.events, hes, hv.events,
      State.initOpened_events hanswers]
    simp [statusEvents, Instr.isHost]
  case expander => rw [State.returned_expander, State.withLife_expander, hbyte.expander]
  case writes => rw [State.returned_writes, State.withLife_env, hww]

end Sys2Proof.Machine
end

section
/-! PROOF. WRITESTRING (spec/43_command_api.md R171): one pass of its loop is a read and, unless it is the terminator, one byte write;
the passes are put together by induction on how many the cap still admits. -/

namespace Sys2Proof.Machine

/-! ### What the lines of the loop send -/

theorem silent_failedTransferEvents (c : Config) (backlight isData : Bool) (b : Byte) {k : Nat} (hk : k < 4) :
    Silent (failedTransferEvents c backlight isData b k) := by
  match k, hk with
  | 0, _ | 1, _ | 2, _ | 3, _ => exact ⟨rfl, rfl⟩

theorem LockedSends.mem {r : Nat} {tried written : List Byte} {reads : List (BitVec 16)} {holds : Nat} {s u : State}
    (h : LockedSends r tried written reads holds s u) : u.mem = s.mem := by
  obtain ⟨-, -, -, hmem, -⟩ := h.frame
  exact hmem

/-- One read of string memory (R51). -/
theorem State.lockedSends_read (s : State) (r : Nat) (a : BitVec 16) (v : Byte) :
    LockedSends r [] [] [a] 0 s (s.port 0 (.memRead a v)) :=
  ⟨s.unchanged_port _ _, rfl, [.memRead a v], s.port_events _ _, ⟨rfl, rfl, rfl, rfl⟩, rfl, rfl⟩

/-- One character in which nothing fails (R170). -/
theorem Sendable.lockedSends_byteDone {c : Config} {backlight : Bool} {r : Nat} {s : State} {l : List WriteAnswer}
    (h : Sendable c backlight r s) (hw : s.env.writes = .ok :: .ok :: .ok :: .ok :: l) (isData : Bool) (b : Byte) (d : Tick) :
    LockedSends r (wireBytes c backlight isData b) (wireBytes c backlight isData b) [] 1 s (s.byteDone r isData b d) := by
  obtain ⟨c2, es, hbyte⟩ := h.byteWritten hw isData b d
  exact hbyte.lockedSends

/-- One character whose raw write with index `k` fails (R125). -/
theorem Sendable.lockedSends_byteFailed {c : Config} {backlight : Bool} {r k : Nat} {s : State} {a : WriteAnswer} {l : List WriteAnswer}
    (h : Sendable c backlight r s) (hk : k < 4) (hw : s.env.writes = List.replicate k .ok ++ a :: l) (ha : a.isOk = false) (b : Byte) :
    LockedSends r ((wireBytes c backlight true b).take (k + 1)) ((wireBytes c backlight true b).take k) [] 1 s
      (s.byteFailed r true b k) := by
  obtain ⟨-, rfl, rfl, -, -, hfree⟩ := h
  have hend : Traffic [.release r] [] [] [] [r] := ⟨rfl, rfl, rfl, rfl⟩
  have hstart : Silent [.acquire r, .now (s.byteNow r)] := ⟨rfl, rfl⟩
  have hrelease : Silent [.release r] := ⟨rfl, rfl⟩
  refine ⟨s.unchanged_byteFailed r true b hk, by rw [State.byteFailed_ctx _ _ _ _ hk, ← hfree], _, ?_,
    (traffic_failedTransferEvents s.cfg s.ctx.backlightOn true b hk).held hend s (s.byteNow r), ?_⟩
  · rw [State.byteFailed_events hk hw ha]
    simp only [List.append_assoc]
  · exact ((hstart.append (silent_waitEvents s _)).append (silent_failedTransferEvents _ _ _ _ hk)).append hrelease

/-! ### Runs of the loop -/

/-- `m` lines of command `i` of requester `r` lead from `s` at the lines `ls` to `u` at the lines `ls'`, whatever its
control nibble and clock readings. -/
def LeadsTo (m r : Nat) (i : Instr) (s : State) (ls : List Line) (u : State) (ls' : List Line) : Prop :=
  ∀ k t t2, ∃ k' t' t2', ∀ n, State.runLines (n + m) r (s.withSeq r (some ⟨i, ls, k, t, t2⟩)) =
    State.runLines n r (u.withSeq r (some ⟨i, ls', k', t', t2'⟩))

theorem LeadsTo.refl (r : Nat) (i : Instr) (s : State) (ls : List Line) : LeadsTo 0 r i s ls s ls :=
  fun k t t2 => ⟨k, t, t2, fun _ => rfl⟩

theorem LeadsTo.trans {m m' r : Nat} {i : Instr} {s u v : State} {ls ls' ls'' : List Line} (h : LeadsTo m r i s ls u ls')
    (h' : LeadsTo m' r i u ls' v ls'') : LeadsTo (m + m') r i s ls v ls'' := by
  intro k t t2
  obtain ⟨k', t', t2', hrun⟩ := h k t t2
  obtain ⟨k'', t'', t2'', hrun'⟩ := h' k' t' t2'
  refine ⟨k'', t'', t2'', fun n => ?_⟩
  rw [Nat.add_comm m m', ← Nat.add_assoc, hrun, hrun']

/-- The head of the loop below the cap reads a byte and goes on as it says. -/
theorem Sendable.leadsTo_read {c : Config} {backlight : Bool} {r : Nat} {s : State} (h : Sendable c backlight r s) (i : Instr)
    (saddr : BitVec 16) {k : Nat} (hk : k < c.stringCap) {v : Byte} (hv : Memory.read s.mem (stringAddress saddr k).toNat = v) :
    LeadsTo 1 r i s (stringLines c saddr k) (s.port 0 (.memRead (stringAddress saddr k) v)) (stringTail c saddr k v) := by
  subst hv
  rw [stringLines, if_pos hk]
  refine fun ctl t t2 => ⟨ctl, t, t2, fun n => ?_⟩
  rw [State.runLines_at h.requester rfl]
  simp only [State.lineStep, State.port_withSeq, State.withSeq_withSeq, State.withSeq_mem, State.withSeq_cfg, h.cfg]

theorem Sendable.leadsTo_byte {c : Config} {backlight : Bool} {r : Nat} {s : State} {l : List WriteAnswer}
    (h : Sendable c backlight r s) (hw : s.env.writes = .ok :: .ok :: .ok :: .ok :: l) (i : Instr) (b : Byte) (d : Tick)
    (rest : List Line) : LeadsTo 14 r i s (byteLines c true b d ++ rest) (s.byteDone r true b d) rest := by
  obtain ⟨hr, rfl, -, hopen, hlock, hfree⟩ := h
  exact fun _ _ _ => ⟨_, _, _, fun _ => State.run_byte_ok hr hlock hfree hopen hw⟩

theorem Sendable.leadsTo_abort {c : Config} {backlight : Bool} {r k : Nat} {s : State} {a : WriteAnswer} {l : List WriteAnswer}
    (h : Sendable c backlight r s) (hk : k < 4) (hw : s.env.writes = List.replicate k .ok ++ a :: l) (ha : a.isOk = false) (i : Instr)
    (b : Byte) (d : Tick) (rest : List Line) :
    LeadsTo (2 * k + 7) r i s (byteLines c true b d ++ rest) (s.byteFailed r true b k) (abortLines i) := by
  obtain ⟨hr, rfl, -, hopen, hlock, hfree⟩ := h
  exact fun _ _ _ => ⟨_, _, _, fun n => State.run_byte_fail hr hlock hfree hopen hk hw ha n⟩

/-- The addresses of `n` string bytes from index `k` on. -/
def stringAddresses (saddr : BitVec 16) (k n : Nat) : List (BitVec 16) := (List.range' k n).map (stringAddress saddr)

theorem stringAddresses_succ (saddr : BitVec 16) (k n : Nat) :
    stringAddresses saddr k (n + 1) = stringAddress saddr k :: stringAddresses saddr (k + 1) n := rfl

/-- The terminator ends the string and the command. -/
theorem string_at_terminator {c : Config} {mem : List Host.Cell} {saddr : BitVec 16} {k : Nat}
    (h : Memory.read mem (stringAddress saddr k).toNat = c.stringTerminator) (n : Nat) :
    stringBytes c mem saddr (n + 1) k = [] ∧
      stringTail c saddr k (Memory.read mem (stringAddress saddr k).toNat) = [.ret .success] := by
  simp [stringBytes, stringTail, h]

/-- Any other byte is a character, with the rest of the string after it. -/
theorem string_at_character {c : Config} {mem : List Host.Cell} {saddr : BitVec 16} {k : Nat}
    (h : Memory.read mem (stringAddress saddr k).toNat ≠ c.stringTerminator) (n : Nat) :
    stringBytes c mem saddr (n + 1) k =
        Memory.read mem (stringAddress saddr k).toNat :: stringBytes c mem saddr n (k + 1) ∧
      stringTail c saddr k (Memory.read mem (stringAddress saddr k).toNat) =
        byteLines c true (Memory.read mem (stringAddress saddr k).toNat) c.delayData ++ stringLines c saddr (k + 1) := by
  simp [stringBytes, stringTail, h]

/-- The read at the head of the loop, below the cap: only the clock has moved before what the byte says. -/
theorem Sendable.string_read {c : Config} {backlight : Bool} {r : Nat} {s : State} {mem : List Host.Cell}
    (h : Sendable c backlight r s) (hmem : s.mem = mem) (i : Instr) (saddr : BitVec 16) {k : Nat} (hk : k < c.stringCap) :
    ∃ s1, Sendable c backlight r s1 ∧ s1.mem = mem ∧ s1.env.writes = s.env.writes ∧
      LockedSends r [] [] [stringAddress saddr k] 0 s s1 ∧ LeadsTo 1 r i s (stringLines c saddr k) s1
        (stringTail c saddr k (Memory.read mem (stringAddress saddr k).toNat)) := by
  subst hmem
  have hsent := s.lockedSends_read r (stringAddress saddr k) (Memory.read s.mem (stringAddress saddr k).toNat)
  exact ⟨_, hsent.sendable h, rfl, rfl, hsent, h.leadsTo_read i saddr hk rfl⟩

/-- The loop from index `k` on, `n` bytes below the cap, when no raw write of its characters fails. -/
theorem Sendable.string_all {c : Config} {backlight : Bool} {r : Nat} {mem : List Host.Cell} (i : Instr) (saddr : BitVec 16)
    (l : List WriteAnswer) (n : Nat) : ∀ {s : State} {k : Nat}, Sendable c backlight r s → s.mem = mem → k + n = c.stringCap →
      s.env.writes = List.replicate (4 * (stringBytes c mem saddr n k).length) .ok ++ l →
      ∃ u, ∃ m ≤ 15 * n, LeadsTo m r i s (stringLines c saddr k) u [.ret .success] ∧
        LockedSends r ((stringBytes c mem saddr n k).flatMap (wireBytes c backlight true))
          ((stringBytes c mem saddr n k).flatMap (wireBytes c backlight true))
          (stringAddresses saddr k (min ((stringBytes c mem saddr n k).length + 1) n)) (stringBytes c mem saddr n k).length s u := by
  induction n with
  | zero =>
    intro s k _ _ hcap _
    refine ⟨s, 0, le_rfl, ?_, ?_⟩
    · rw [stringLines, if_neg (by omega)]
      exact .refl r i s _
    · rw [Nat.min_zero]
      exact .refl r s
  | succ n ih =>
    intro s k h hmem hcap hw
    obtain ⟨s1, h1, hmem1, hw1, hread, hrun1⟩ := h.string_read hmem i saddr (k := k) (by omega)
    by_cases hend : Memory.read mem (stringAddress saddr k).toNat = c.stringTerminator
    case pos =>
      obtain ⟨hnone, htail⟩ := string_at_terminator hend n
      rw [htail] at hrun1
      rw [hnone, List.length_nil, Nat.zero_add, Nat.min_eq_left (Nat.le_add_left 1 n)]
      exact ⟨s1, 1, by omega, hrun1, hread⟩
    case neg =>
      obtain ⟨hsome, htail⟩ := string_at_character hend n
      generalize Memory.read mem (stringAddress saddr k).toNat = v at hsome htail hrun1
      rw [htail] at hrun1
      rw [hsome] at hw ⊢
      have hw4 : s1.env.writes = .ok :: .ok :: .ok :: .ok ::
        (List.replicate (4 * (stringBytes c mem saddr n (k + 1)).length) .ok ++ l) := hw1.trans hw
      have hbyte := h1.lockedSends_byteDone hw4 true v c.delayData
      obtain ⟨u, m, hm, hrun, hu⟩ := ih (k := k + 1) (hbyte.sendable h1) (hbyte.mem.trans hmem1) (by omega)
        (by rw [State.byteDone_writes, hw4]; rfl)
      refine ⟨u, 1 + (14 + m), by omega, hrun1.trans ((h1.leadsTo_byte hw4 i v c.delayData _).trans hrun), ?_⟩
      have hall := hread.trans (hbyte.trans hu)
      rw [List.length_cons, Nat.add_min_add_right, stringAddresses_succ, List.flatMap_cons]
      rwa [Nat.zero_add, Nat.add_comm 1] at hall

/-- The loop from index `k` on, `n` bytes below the cap, when the raw write of its characters with index `j` fails. -/
theorem Sendable.string_aborts {c : Config} {backlight : Bool} {r : Nat} {mem : List Host.Cell} (i : Instr) (saddr : BitVec 16)
    {a : WriteAnswer} (ha : a.isOk = false) (l : List WriteAnswer) (n : Nat) : ∀ {s : State} {k j : Nat},
      Sendable c backlight r s → s.mem = mem → k + n = c.stringCap → j < 4 * (stringBytes c mem saddr n k).length →
      s.env.writes = List.replicate j .ok ++ a :: l →
      ∃ u, ∃ m ≤ 15 * n, LeadsTo m r i s (stringLines c saddr k) u (abortLines i) ∧ u.ctx.nextReadyTick = 0 ∧
        LockedSends r (((stringBytes c mem saddr n k).flatMap (wireBytes c backlight true)).take (j + 1))
          (((stringBytes c mem saddr n k).flatMap (wireBytes c backlight true)).take j)
          (stringAddresses saddr k (j / 4 + 1)) (j / 4 + 1) s u := by
  induction n with
  | zero => exact fun _ _ _ hj => absurd hj (Nat.not_lt_zero _)
  | succ n ih =>
    intro s k j h hmem hcap hj hw
    obtain ⟨s1, h1, hmem1, hw1, hread, hrun1⟩ := h.string_read hmem i saddr (k := k) (by omega)
    by_cases hend : Memory.read mem (stringAddress saddr k).toNat = c.stringTerminator
    case pos =>
      obtain ⟨hnone, -⟩ := string_at_terminator hend n
      rw [hnone] at hj
      exact absurd hj (Nat.not_lt_zero _)
    case neg =>
      obtain ⟨hsome, htail⟩ := string_at_character hend n
      generalize Memory.read mem (stringAddress saddr k).toNat = v at hsome htail hrun1
      rw [htail] at hrun1
      rw [hsome] at hj ⊢
      rw [List.flatMap_cons]
      rw [← hw1] at hw
      have hlength : (wireBytes c backlight true v).length = 4 := rfl
      by_cases hfirst : j < 4
      case pos =>
        have hbyte := h1.lockedSends_byteFailed hfirst hw ha v
        refine ⟨_, 1 + (2 * j + 7), by omega, hrun1.trans (h1.leadsTo_abort hfirst hw ha i v c.delayData _),
          by rw [State.byteFailed_ctx _ _ _ _ hfirst], ?_⟩
        rw [List.take_append_of_le_length (by omega), List.take_append_of_le_length (by omega), Nat.div_eq_of_lt hfirst]
        exact hread.trans hbyte
      case neg =>
        obtain ⟨j, rfl⟩ := Nat.exists_eq_add_of_le (Nat.le_of_not_lt hfirst)
        have hw4 : s1.env.writes = .ok :: .ok :: .ok :: .ok :: (List.replicate j .ok ++ a :: l) := by
          rw [hw, List.replicate_add]
          rfl
        have hbyte := h1.lockedSends_byteDone hw4 true v c.delayData
        obtain ⟨u, m, hm, hrun, htick, hu⟩ := ih (k := k + 1) (j := j) (hbyte.sendable h1) (hbyte.mem.trans hmem1)
          (by omega) (by rw [List.length_cons] at hj; omega) (by rw [State.byteDone_writes, hw4]; rfl)
        refine ⟨u, 1 + (14 + m), by omega, hrun1.trans ((h1.leadsTo_byte hw4 i v c.delayData _).trans hrun), htick, ?_⟩
        have hall := hread.trans (hbyte.trans hu)
        rw [Nat.add_assoc, ← hlength, List.take_length_add_append, List.take_length_add_append, hlength,
          Nat.add_div_left j (by decide), stringAddresses_succ]
        rwa [Nat.zero_add, Nat.add_comm 1] at hall

/-! ### The command as a whole -/

theorem State.sendable_arrived {s : State} (h : s.readyAlone = true) (i : Instr) :
    Sendable s.cfg s.ctx.backlightOn s.cur (s.arrived i) := by
  obtain ⟨hs, -, hopen, hexists, howner⟩ := s.readyAlone_iff.mp h
  obtain ⟨hr, -⟩ := s.quietStart_iff.mp hs
  obtain ⟨hcfg, -, hreq, -⟩ := s.unchanged_arrived i
  exact ⟨by rwa [hreq], hcfg, by simp, by simpa using hopen, by simpa using hexists, by simpa using howner⟩

/-- A WRITESTRING run alone whose lines lead to its return. -/
theorem exec_writeString_returns {s u : State} {saddr : BitVec 16} {m : Nat} {st : Status} (h : s.readyAlone = true)
    (hu : Unchanged (s.arrived (.writeString saddr)) u) (hm : m ≤ 15 * s.cfg.stringCap)
    (hrun : LeadsTo m s.cur (.writeString saddr) (s.arrived (.writeString saddr)) (stringLines s.cfg saddr 0) u [.ret st]) :
    exec (.writeString saddr) s = .next (u.returned s.cur (.writeString saddr) st) := by
  obtain ⟨hs, -⟩ := s.readyAlone_iff.mp h
  obtain ⟨hr, -, -, hq⟩ := s.quietStart_iff.mp hs
  obtain ⟨n, hn⟩ : ∃ n, s.budget = (n + 1) + m := ⟨s.budget - 1 - m, by simp only [State.budget]; omega⟩
  obtain ⟨k, t, t2, hrun⟩ := hrun 0 0 0
  refine (State.readyCommand_of_readyAlone h _ _).trans (congrArg Host.Outcome.next ?_)
  rw [hn, State.arrive_eq_arrived, hrun]
  exact State.run_ret_of_idle hr hq ((s.unchanged_arrived _).trans hu)

/-- What it leaves then: its `Cmd` before and its `Status` after what the loop has sent. -/
theorem LockedSends.returned {s u : State} {saddr : BitVec 16} {tried written : List Byte} {reads : List (BitVec 16)} {holds : Nat}
    (h : LockedSends s.cur tried written reads holds (s.arrived (.writeString saddr)) u) (st : Status) :
    ∃ es, (u.returned s.cur (.writeString saddr) st).events = s.events ++ es ∧
      Traffic es tried written (List.replicate holds s.cur) (List.replicate holds s.cur) ∧ readsOf es = reads ∧
      statusesOf es = [(s.cur, st.code s.cfg)] ∧ Unchanged s (u.returned s.cur (.writeString saddr) st) ∧
      (u.returned s.cur (.writeString saddr) st).ctx = { s.ctx with nextReadyTick := u.ctx.nextReadyTick } := by
  obtain ⟨hframe, hctx, es, hes, htraffic, hreads, hstatuses⟩ := h
  have hu := (s.unchanged_arrived (.writeString saddr)).trans hframe
  have hcmd : Traffic (cmdEvents s (.writeString saddr)) [] [] [] [] := ⟨rfl, rfl, rfl, rfl⟩
  have hstatus : Traffic (statusEvents s (.writeString saddr) st) [] [] [] [] := ⟨rfl, rfl, rfl, rfl⟩
  refine ⟨cmdEvents s (.writeString saddr) ++ es ++ statusEvents s (.writeString saddr) st, ?_, ?_, ?_, ?_,
    hu.trans (State.unchanged_returned _ _ _ _), ?_⟩
  · rw [State.returned_events hu.1, hes, State.arrived_events]
    simp only [List.append_assoc]
  · simpa using (hcmd.append htraffic).append hstatus
  · rw [readsOf_append, readsOf_append, hreads]
    exact List.append_nil _
  · rw [statusesOf_append, statusesOf_append, hstatuses]
    rfl
  · rw [State.returned_ctx, hctx, State.arrived_ctx]

/-- Settles O30: the loop sends all its characters, or those before the one whose raw write fails; an empty string is one read. -/
theorem writeStringSendsTheString : Obligations.WriteStringSendsTheString := by
  intro s saddr h
  have hsend := State.sendable_arrived h (.writeString saddr)
  have hmem : (s.arrived (.writeString saddr)).mem = s.mem := rfl
  refine ⟨fun hok => ?sent, fun k a l hk hw ha => ?failed, fun hcap hend => ?empty⟩
  case sent =>
    have hw := (List.take_append_drop (4 * (stringSent s saddr).length) s.env.writes).symm
    rw [hok] at hw
    obtain ⟨u, m, hm, hrun, hu⟩ := hsend.string_all (.writeString saddr) saddr _ s.cfg.stringCap hmem (Nat.zero_add _) hw
    obtain ⟨es, hes, ⟨htried, hwritten, hacquired, hreleased⟩, hreads, hstatuses, hframe, hctx⟩ := hu.returned .success
    refine ⟨_, es, exec_writeString_returns h hu.frame hm hrun, hes, htried, hwritten, ?_, hacquired, hreleased, hstatuses,
      hctx.trans (by rw [State.returned_ctx]), hframe⟩
    rw [hreads, stringAddresses, List.range_eq_range']
    rfl
  case failed =>
    obtain ⟨u, m, hm, hrun, htick, hu⟩ := hsend.string_aborts (.writeString saddr) saddr ha l s.cfg.stringCap hmem (Nat.zero_add _)
      hk hw
    obtain ⟨es, hes, ⟨htried, hwritten, -, -⟩, hreads, hstatuses, hframe, hctx⟩ := hu.returned .transferFailure
    refine ⟨_, es, exec_writeString_returns h hu.frame hm hrun, hes, htried, hwritten, ?_, hstatuses, htick ▸ hctx, hframe⟩
    rw [hreads, stringAddresses, List.range_eq_range']
  case empty =>
    have haddress : stringAddress saddr 0 = saddr := by simp [stringAddress]
    have hread := hsend.leadsTo_read (.writeString saddr) saddr (k := 0) hcap (v := s.cfg.stringTerminator) (by rwa [haddress])
    rw [stringTail, if_pos rfl, haddress] at hread
    have hframe := (s.arrived (.writeString saddr)).unchanged_port 0 (.memRead saddr s.cfg.stringTerminator)
    have hu := (s.unchanged_arrived (.writeString saddr)).trans hframe
    refine ⟨_, exec_writeString_returns h hframe (by omega) hread, ?_, ?_, ?_, hu.trans (State.unchanged_returned _ _ _ _)⟩
    · rw [State.returned_ctx, State.port_ctx, State.arrived_ctx]
    · rw [State.returned_expander, State.port_expander, State.arrived_expander]
    · rw [State.returned_events hu.1, State.port_events, State.arrived_events]
      simp [cmdEvents, statusEvents, Instr.isHost]

end Sys2Proof.Machine
end

section
/-! PROOF. Time and the history of port events (spec/44_portability_interfaces.md R197, R199): no step turns the clock back or takes an
event back, and where nothing is to do a step only lets time pass (R200). -/

namespace Sys2Proof.Machine

/-! ### Every step only adds (R197, R199) -/

theorem OutsideMove.lapses {s u : State} (h : OutsideMove s u) : Lapses s u := by
  obtain ⟨-, -, -, hhistory, -, -, hclock⟩ := h
  exact ⟨hclock, [], by simp [hhistory], by simp⟩

theorem Starts.lapses {i : Instr} {s start : State} (h : Starts i s start) : Lapses s start := by
  obtain ⟨lines, c, rfl⟩ := h.eq_arrive
  exact (s.lapses_arrive i lines).trans (.of_same rfl rfl)

theorem step_lapses {s t : State} (h : step s = .next t) : Lapses s t :=
  step_keeps (P := Lapses s) (fun _ _ hs hout => hs.trans hout.lapses) (fun u hs _ => hs.trans (u.lapses_perform u.cur))
    (fun _ _ _ hs hst => hs.trans hst.lapses) (.of_same rfl rfl) h

/-- Settles O53: a step lets time pass, and the events that are new stand after the old ones. -/
theorem clockAndHistoryOnlyGrow : Obligations.ClockAndHistoryOnlyGrow := by
  intro s t h
  obtain ⟨hclock, new, hhistory, -⟩ := step_lapses h
  exact ⟨hclock, new, hhistory.symm⟩

/-! ### With nothing to do (R200, R230) -/

theorem State.movers_of_quiet {s : State} (h : s.requesters.all Requester.quiet = true) : s.movers = [] := by
  refine List.filter_eq_nil_iff.mpr fun r hr => ?_
  have hr : r < s.requesters.length := List.mem_range.mp hr
  have hreq : s.req r = s.requesters[r] := by simp [State.req, hr]
  have hquiet : (s.req r).quiet = true := hreq ▸ List.all_eq_true.mp h _ (List.getElem_mem hr)
  simp [State.hasStep_quiet hquiet]

/-- Settles O9: no move is laid down and no requester has a step, so the machine idles. -/
theorem idleBlockDoesNothing : Obligations.IdleBlockDoesNothing := by
  intro s hagenda hquiet
  simp only [step, State.nextTurn, hagenda, State.movers_of_quiet hquiet, hquiet, if_true, Turn.outcome]

end Sys2Proof.Machine
end

section
/-! PROOF. Reset and hazards (spec/70_reset_and_hazards.md): the machine at power-on, and that a host command run alone ends whatever
the environment answers (R268), because its next line always has a step and every line leaves fewer to run. -/

namespace Sys2Proof.Machine

/-! ### Power-on (R250) -/

/-- Where nothing is in progress and nobody owns the lock, the discipline asks for nothing. -/
theorem LockDiscipline.of_idle {s : State} (hidle : ∀ r, (s.req r).seq = none) (howner : s.ctx.lockOwner = none) :
    LockDiscipline s := by
  refine (lockDiscipline_iff s).mpr ⟨⟨fun r p hp => ?_, fun r ho => ?_⟩, .of_idle fun r => by simp [State.inProgress, hidle]⟩
  · cases (hidle r).symm.trans hp
  · cases howner.symm.trans ho

/-- Where nothing is in progress nobody owns the lock (R64). -/
theorem LockDiscipline.free_of_idle {s : State} (h : LockDiscipline s) (hidle : ∀ r, (s.req r).seq = none) :
    s.ctx.lockOwner = none := by
  obtain ⟨hlock, -⟩ := (lockDiscipline_iff s).mp h
  refine Option.eq_none_iff_forall_ne_some.mpr fun r ho => ?_
  have hbusy := hlock.ownerBusy r ho
  rw [hidle r] at hbusy
  cases hbusy

/-- Settles O45: no command is in progress and nobody owns the lock. -/
theorem lockDisciplineAtPowerOn : Obligations.LockDisciplineAtPowerOn := .of_idle State.reset_seq rfl

/-- Settles O10: the context is the absent one, and of fresh requesters the block idles. -/
theorem powerOnState : Obligations.PowerOnState :=
  ⟨Context.freed_absent, State.reset_seq, rfl, idleBlockDoesNothing _ rfl rfl⟩

/-! ### The handles a command finds (R24, R25) -/

/-- The lines to come find the transport open and the lock existing wherever they ask for it, given whether the one is open and the
other exists now. -/
def findsHandles (opened existing : Bool) : List Line → Bool
  | [] => true
  | .openTransport :: rest => findsHandles true existing rest
  | .createLock :: rest => findsHandles opened true rest
  | .closeTransport :: rest => findsHandles false existing rest
  | .destroyLock :: rest => findsHandles opened false rest
  | .acquire :: rest => existing && findsHandles opened existing rest
  | .nibbleWrite _ _ _ :: rest => opened && findsHandles opened existing rest
  | .rawWrite _ :: rest => opened && findsHandles opened existing rest
  | .readString _ _ :: _ => opened && existing
  | _ :: rest => findsHandles opened existing rest

theorem findsHandles_byteLines_append (c : Config) (isData : Bool) (b : Byte) (d : Tick) (rest : List Line) :
    findsHandles true true (byteLines c isData b d ++ rest) = findsHandles true true rest := by
  simp [byteLines, findsHandles]

theorem findsHandles_stringLines (c : Config) (saddr : BitVec 16) (k : Nat) : findsHandles true true (stringLines c saddr k) = true := by
  unfold stringLines
  split <;> rfl

theorem findsHandles_stringTail (c : Config) (saddr : BitVec 16) (k : Nat) (v : Byte) :
    findsHandles true true (stringTail c saddr k v) = true := by
  unfold stringTail
  split
  · rfl
  · rw [findsHandles_byteLines_append, findsHandles_stringLines]

/-- The way out after a failed raw write asks for no handle. -/
theorem findsHandles_raiseTransfer (opened existing inByte : Bool) (p : Progress) :
    findsHandles opened existing (p.raiseTransfer inByte).todo = true := by
  have habort : findsHandles opened existing (abortLines p.cmd) = true := by
    cases p.cmd <;> rfl
  cases inByte <;> exact habort

theorem findsHandles_initLines (opened existing : Bool) (c : Config) (a : Byte) (b : Bool) :
    findsHandles opened existing (initLines c a b) = true := by
  simp [initLines, resetLines, bareNibbleLines, findsHandles, findsHandles_byteLines_append]

theorem findsHandles_startLines (c : Config) (i : Instr) : findsHandles true true (startLines c i) = true := by
  have byte : ∀ isData b d, findsHandles true true (byteLines c isData b d ++ [.ret .success]) = true := fun isData b d =>
    findsHandles_byteLines_append c isData b d _
  cases i with
  | setCursor row column =>
    simp only [startLines]
    split
    · exact byte _ _ _
    · rfl
  | writeString saddr => exact findsHandles_stringLines c saddr 0
  | init | deinit | setBacklight | kSetCgramAddr | wireByte => rfl
  | _ => exact byte _ _ _

/-- What is left to run after a line finds its handles as well: an answer that leaves a handle out leads to lines that do not ask for
it. -/
theorem lineSeq_findsHandles {s : State} {p : Progress} {l : Line} {rest : List Line} (r : Nat)
    (h : findsHandles s.ctx.transportOpen s.ctx.lockExists (l :: rest) = true) :
    ∀ q ∈ lineSeq { p with todo := rest } l s,
      findsHandles (lineCtx r { p with todo := rest } l s).transportOpen (lineCtx r { p with todo := rest } l s).lockExists
        q.todo = true := by
  intro q hq
  cases l with
  | alloc =>
    cases hq
    split
    · exact h
    · rfl
  | openTransport | createLock =>
    cases hq
    simp only [lineCtx]
    split
    · exact h
    · rfl
  | nibbleWrite | rawWrite =>
    cases hq
    split
    · exact (Bool.and_eq_true_iff.mp h).2
    · exact findsHandles_raiseTransfer _ _ _ _
  | acquire =>
    cases hq
    exact (Bool.and_eq_true_iff.mp h).2
  | readString saddr k =>
    cases hq
    obtain ⟨hopen, hexists⟩ := Bool.and_eq_true_iff.mp h
    simp only [lineCtx, hopen, hexists]
    exact findsHandles_stringTail _ _ _ _
  | becomeReady | freeContext | ret => cases hq
  | _ =>
    cases hq
    exact h

/-- A disciplined line that finds its handles has a step, unless another requester owns the lock. -/
theorem State.hindrance_eq_none {s : State} {r : Nat} {i : Instr} {l : Line} {rest : List Line}
    (hd : disciplined i (decide (s.ctx.lockOwner = some r)) (l :: rest) = true)
    (hh : findsHandles s.ctx.transportOpen s.ctx.lockExists (l :: rest) = true)
    (howner : ∀ r', s.ctx.lockOwner = some r' → r' = r) : s.hindrance r l = none := by
  have free : s.ctx.lockOwner ≠ some r → s.ctx.lockOwner = none := fun hne =>
    Option.eq_none_iff_forall_ne_some.mpr fun r' ho => hne (howner r' ho ▸ ho)
  cases l with
  | acquire =>
    simp only [disciplined, Bool.and_eq_true, Bool.not_eq_true', decide_eq_false_iff_not] at hd
    obtain ⟨hnot, -⟩ := hd
    obtain ⟨hexists, -⟩ := Bool.and_eq_true_iff.mp hh
    simp [State.hindrance, hexists, free hnot]
  | release =>
    simp only [disciplined, Bool.and_eq_true, decide_eq_true_eq] at hd
    obtain ⟨hown, -⟩ := hd
    simp [State.hindrance, hown]
  | nibbleWrite n enable inByte =>
    obtain ⟨hopen, -⟩ := Bool.and_eq_true_iff.mp hh
    simp [State.hindrance, hopen]
  | rawWrite v =>
    simp only [disciplined, Bool.and_eq_true, Bool.not_eq_true', decide_eq_false_iff_not] at hd
    obtain ⟨⟨hnot, -⟩, -⟩ := hd
    obtain ⟨hopen, -⟩ := Bool.and_eq_true_iff.mp hh
    simp [State.hindrance, hopen, free hnot]
  | _ => rfl

/-! ### How many lines are left (R172) -/

/-- The most lines of the other course a line may take: the unwinding after a failing answer, or the string from the next index on. -/
def branchLines (c : Config) : Line → Nat
  | .alloc => 1
  | .openTransport => 1
  | .createLock => 2
  | .nibbleWrite _ _ _ => 5
  | .rawWrite _ => 5
  | .readString _ k => 15 * (c.stringCap - k) + 16
  | _ => 0

/-- The most lines a command at `lines` has still to run, whatever is answered. -/
def linesLeft (c : Config) : List Line → Nat
  | [] => 0
  | l :: rest => max (branchLines c l) (linesLeft c rest) + 1

theorem linesLeft_byteLines_append (c : Config) (isData : Bool) (b : Byte) (d : Tick) (rest : List Line) :
    linesLeft c (byteLines c isData b d ++ rest) = max 16 (linesLeft c rest + 14) := by
  simp only [byteLines, List.cons_append, List.nil_append, linesLeft, branchLines]
  omega

theorem linesLeft_stringLines_le (c : Config) (saddr : BitVec 16) (k : Nat) :
    linesLeft c (stringLines c saddr k) ≤ 15 * (c.stringCap - k) + 17 := by
  unfold stringLines
  split <;> simp [linesLeft, branchLines]

theorem linesLeft_stringTail_le (c : Config) (saddr : BitVec 16) (k : Nat) (v : Byte) :
    linesLeft c (stringTail c saddr k v) ≤ 15 * (c.stringCap - k) + 16 := by
  unfold stringTail
  split
  · simp [linesLeft, branchLines]
  · rw [linesLeft_byteLines_append, stringLines]
    split
    · simp only [linesLeft, branchLines]
      omega
    · simp only [linesLeft, branchLines]
      omega

theorem linesLeft_raiseTransfer_le (c : Config) (inByte : Bool) (p : Progress) : linesLeft c (p.raiseTransfer inByte).todo ≤ 5 := by
  have habort : linesLeft c (abortLines p.cmd) ≤ 3 := by
    cases p.cmd <;> simp [abortLines, linesLeft, branchLines]
  cases inByte with
  | false => exact habort.trans (by decide)
  | true =>
    simp only [Progress.raiseTransfer, if_true, List.cons_append, List.nil_append, linesLeft, branchLines]
    omega

/-- Every line leaves fewer lines to run. -/
theorem lineSeq_linesLeft {s : State} {p : Progress} {l : Line} {rest : List Line} :
    ∀ q ∈ lineSeq { p with todo := rest } l s, linesLeft s.cfg q.todo < linesLeft s.cfg (l :: rest) := by
  have course : ∀ ls, linesLeft s.cfg ls ≤ branchLines s.cfg l ∨ linesLeft s.cfg ls ≤ linesLeft s.cfg rest →
      linesLeft s.cfg ls < linesLeft s.cfg (l :: rest) := by
    intro ls h
    simp only [linesLeft]
    omega
  intro q hq
  refine course q.todo ?_
  cases l with
  | alloc | openTransport | createLock =>
    cases hq
    split
    · exact .inr le_rfl
    · exact .inl (by simp [linesLeft, branchLines])
  | nibbleWrite | rawWrite =>
    cases hq
    split
    · exact .inr le_rfl
    · exact .inl (linesLeft_raiseTransfer_le _ _ _)
  | readString saddr k =>
    cases hq
    exact .inl (linesLeft_stringTail_le _ _ _ _)
  | becomeReady | freeContext | ret => cases hq
  | _ =>
    cases hq
    exact .inr le_rfl

theorem linesLeft_initLines (c : Config) (a : Byte) (b : Bool) : linesLeft c (initLines c a b) = 76 := by
  simp [initLines, resetLines, bareNibbleLines, linesLeft, branchLines, linesLeft_byteLines_append]

/-- The budget of a whole command is enough for every command that starts. -/
theorem linesLeft_startLines_le (c : Config) (i : Instr) : linesLeft c (startLines c i) ≤ 15 * c.stringCap + 17 := by
  have byte : ∀ isData b d, linesLeft c (byteLines c isData b d ++ [.ret .success]) ≤ 15 * c.stringCap + 17 := by
    intro isData b d
    rw [linesLeft_byteLines_append]
    simp only [linesLeft, branchLines]
    omega
  cases i with
  | setCursor row column =>
    simp only [startLines]
    split
    · exact byte _ _ _
    · simp [linesLeft, branchLines]
  | writeString saddr => exact linesLeft_stringLines_le c saddr 0
  | init | deinit | setBacklight | kSetCgramAddr | wireByte => simp [startLines, linesLeft, branchLines]
  | _ => exact byte _ _ _

/-! ### The status (R160, R199) -/

/-- The line that ends a host command returns one status. -/
theorem statusesOf_lineEvents_last {s : State} {r : Nat} {p : Progress} {l : Line} (hhost : p.cmd.isHost = true)
    (hend : lineSeq p l s = none) : ∃ code, statusesOf (lineEvents r p l s) = [(r, code)] := by
  cases l with
  | becomeReady | freeContext | ret =>
    simp only [lineEvents, hhost, if_true]
    exact ⟨_, rfl⟩
  | _ => cases hend

/-- No other line returns a status. -/
theorem statusesOf_lineEvents_inner {s : State} {r : Nat} {p q : Progress} {l : Line} (hgo : lineSeq p l s = some q) :
    statusesOf (lineEvents r p l s) = [] := by
  cases l with
  | becomeReady | freeContext | ret => cases hgo
  | waitReady =>
    simp only [lineEvents]
    split <;> rfl
  | _ => rfl

/-! ### The run of a command alone -/

/-- Requester `r` is on its way through a host command at position `p`, no other requester has a command in progress, and the lines
to come find their handles. -/
structure Underway (r : Nat) (p : Progress) (s : State) : Prop where
  seq : (s.req r).seq = some p
  host : p.cmd.isHost = true
  others : ∀ r', r' ≠ r → (s.req r').seq = none
  discipline : LockDiscipline s
  handles : findsHandles s.ctx.transportOpen s.ctx.lockExists p.todo = true

/-- From `s` to `t` the requester has got one status; it is idle and the lock is free. -/
structure Returned (r : Nat) (s t : State) : Prop where
  idle : (t.req r).seq = none
  free : t.ctx.lockOwner = none
  status : ∃ code, statusesOf t.events = statusesOf s.events ++ [(r, code)]

theorem Underway.owner {r : Nat} {p : Progress} {s : State} (h : Underway r p s) {r' : Nat} (ho : s.ctx.lockOwner = some r') :
    r' = r := by
  obtain ⟨hlock, -⟩ := (lockDiscipline_iff s).mp h.discipline
  by_contra hne
  have hbusy := hlock.ownerBusy r' ho
  rw [h.others r' hne] at hbusy
  cases hbusy

/-- A command on its way has a next line, and that line has a step. -/
theorem Underway.next_line {r : Nat} {p : Progress} {s : State} (h : Underway r p s) :
    ∃ l rest, p.todo = l :: rest ∧ s.hindrance r l = none := by
  obtain ⟨hlock, -⟩ := (lockDiscipline_iff s).mp h.discipline
  have hd := hlock.paired r p h.seq
  have hh := h.handles
  cases ht : p.todo with
  | nil =>
    rw [ht] at hd
    cases hd
  | cons l rest =>
    rw [ht] at hd hh
    exact ⟨l, rest, rfl, State.hindrance_eq_none hd hh fun _ => h.owner⟩

theorem Underway.canMove {r : Nat} {p : Progress} {s : State} (h : Underway r p s) : s.canMove r = true := by
  obtain ⟨l, rest, ht, hnone⟩ := h.next_line
  simp [State.canMove, State.blocked, h.seq, ht, hnone]

/-- Its line ends the command with its status, or leaves it on its way with fewer lines to run and no status yet. -/
theorem Underway.perform {r : Nat} {p : Progress} {s : State} (h : Underway r p s) :
    Returned r s (s.perform r) ∨
      ∃ q, Underway r q (s.perform r) ∧ linesLeft (s.perform r).cfg q.todo < linesLeft s.cfg p.todo ∧
        statusesOf (s.perform r).events = statusesOf s.events := by
  obtain ⟨l, rest, ht, -⟩ := h.next_line
  have he := State.perform_line h.seq ht
  have hdisc : LockDiscipline (s.perform r) := h.discipline.perform h.canMove
  have hseq : ((s.perform r).req r).seq = lineSeq { p with todo := rest } l s := by
    rw [he, State.lineStep_seq, if_pos ⟨rfl, State.lt_of_seq h.seq⟩]
  have hothers : ∀ r', r' ≠ r → ((s.perform r).req r').seq = none := by
    intro r' hne
    rw [he, State.lineStep_seq, if_neg fun e => hne e.1.symm]
    exact h.others r' hne
  have hstatus : statusesOf (s.perform r).events =
      statusesOf s.events ++ statusesOf (lineEvents r { p with todo := rest } l s) := by
    rw [he, State.lineStep_events, statusesOf_append]
  cases hnext : lineSeq { p with todo := rest } l s with
  | none =>
    rw [hnext] at hseq
    obtain ⟨code, hcode⟩ := statusesOf_lineEvents_last (r := r) (p := { p with todo := rest }) h.host hnext
    refine .inl ⟨hseq, hdisc.free_of_idle fun r' => ?_, code, hcode ▸ hstatus⟩
    by_cases e : r' = r
    · rw [e, hseq]
    · exact hothers r' e
  | some q =>
    rw [hnext] at hseq
    have hh := h.handles
    rw [ht] at hh
    obtain ⟨hcfg, -⟩ := s.perform_kept r
    refine .inr ⟨q, ⟨hseq, ?_, hothers, hdisc, ?_⟩, ?_, ?_⟩
    · rw [lineSeq_cmd hnext]
      exact h.host
    · rw [he, State.lineStep_ctx]
      exact lineSeq_findsHandles r hh q hnext
    · rw [hcfg, ht]
      exact lineSeq_linesLeft q hnext
    · rw [hstatus, statusesOf_lineEvents_inner hnext, List.append_nil]

/-- Given as many lines as are left, the command on its way returns. -/
theorem Underway.returned {r : Nat} (n : Nat) {p : Progress} {s : State} (h : Underway r p s)
    (hn : linesLeft s.cfg p.todo ≤ n) : Returned r s (State.runLines n r s) := by
  induction n generalizing p s with
  | zero =>
    obtain ⟨l, rest, ht, -⟩ := h.next_line
    rw [ht, linesLeft] at hn
    omega
  | succ n ih =>
    rw [State.runLines, if_pos h.canMove]
    rcases h.perform with hdone | ⟨q, hq, hless, hstatus⟩
    · rwa [State.runLines_idle n hdone.idle]
    · obtain ⟨hidle, hfree, code, hcode⟩ := ih hq (by omega)
      exact ⟨hidle, hfree, code, by rw [hcode, hstatus]⟩

/-! ### From the arrival on -/

theorem State.idle_of_quietStart {s : State} (h : s.quietStart = true) (r : Nat) : (s.req r).seq = none := by
  obtain ⟨-, -, ha, hq⟩ := s.quietStart_iff.mp h
  obtain ⟨-, hothers⟩ := State.quiet_of_alone ha
  by_cases e : r = s.cur
  · rw [e, hq]
  · have hquiet := hothers r e
    simp only [Requester.quiet, Bool.and_eq_true, Option.isNone_iff_eq_none] at hquiet
    exact hquiet.1

/-- The lines a command starts with find the handles that are there, and are no more than the budget. -/
theorem Starts.arrives_served {i : Instr} {s start : State} (h : Starts i s start)
    (hhandles : i.lifecycle = false → s.ctx.transportOpen = true ∧ s.ctx.lockExists = true) :
    ∃ lines c, start = (s.arrive i lines).withCtx c ∧ findsHandles c.transportOpen c.lockExists lines = true ∧
      linesLeft s.cfg lines ≤ s.budget := by
  obtain ⟨-, -, -, -, ⟨a, b, -, -, rfl⟩ | ⟨-, -, rfl⟩ | ⟨hl, -, rfl⟩⟩ := h
  · refine ⟨initLines s.cfg a b, _, rfl, findsHandles_initLines _ _ _ _ _, ?_⟩
    rw [linesLeft_initLines, State.budget]
    omega
  · refine ⟨deinitLines, _, rfl, rfl, ?_⟩
    show 3 ≤ s.budget
    rw [State.budget]
    omega
  · obtain ⟨hopen, hexists⟩ := hhandles hl
    obtain ⟨-, hctx, -⟩ := s.arrive_kept i (startLines s.cfg i)
    refine ⟨startLines s.cfg i, (s.arrive i (startLines s.cfg i)).ctx, rfl, ?_, (linesLeft_startLines_le _ _).trans ?_⟩
    · rw [hctx, hopen, hexists]
      exact findsHandles_startLines _ _
    · rw [State.budget]
      omega

/-- Whatever a host command answers when it starts alone, it has returned. -/
theorem exec_returned {s t : State} {i : Instr} (hs : s.quietStart = true) (howner : s.ctx.lockOwner = none)
    (hhandles : i.lifecycle = false → s.ctx.transportOpen = true ∧ s.ctx.lockExists = true) (hhost : i.isHost = true)
    (h : exec i s = .next t) : Returned s.cur s t := by
  obtain ⟨hr, -, ha, hq⟩ := s.quietStart_iff.mp hs
  have hidle := State.idle_of_quietStart hs
  obtain ⟨start, hst, rfl, -⟩ := exec_start hq h
  have hdisc : LockDiscipline start := (LockDiscipline.of_idle hidle howner).starts hst
  obtain ⟨lines, c, rfl, hlines, hbudget⟩ := hst.arrives_served hhandles
  have hseq : ∀ r, (((s.arrive i lines).withCtx c).req r).seq =
      if s.cur = r ∧ s.cur < s.requesters.length then some ⟨i, lines, 0, 0, 0⟩ else (s.req r).seq := s.arrive_seq i lines
  have hway : Underway s.cur ⟨i, lines, 0, 0, 0⟩ ((s.arrive i lines).withCtx c) := by
    refine ⟨?_, hhost, fun r hne => ?_, hdisc, hlines⟩
    · rw [hseq, if_pos ⟨rfl, hr⟩]
    · rw [hseq, if_neg fun e => hne e.1.symm, hidle]
  have hstatus : statusesOf ((s.arrive i lines).withCtx c).events = statusesOf s.events := by
    rw [State.withCtx_events, State.arrive_events, statusesOf_append, cmdEvents, if_pos hhost]
    exact List.append_nil _
  obtain ⟨hcfg, -⟩ := s.arrive_kept i lines
  rw [if_pos ha]
  obtain ⟨hdone, hfree, code, hcode⟩ := hway.returned s.budget (hcfg ▸ hbudget)
  exact ⟨hdone, hfree, code, hcode.trans (by rw [hstatus])⟩

/-- Every host command but INIT, run alone on a Ready context, answers a next state. -/
theorem exec_answers_of_readyAlone {s : State} (h : s.readyAlone = true) {i : Instr} (hhost : i.isHost = true)
    (hinit : ∀ address backlightOn, i ≠ .init address backlightOn) : ∃ t, exec i s = .next t := by
  have ready : ∀ lines, ∃ t, s.readyCommand i lines = .next t := fun lines => ⟨_, State.readyCommand_of_readyAlone h i lines⟩
  cases i with
  | init address backlightOn => exact absurd rfl (hinit address backlightOn)
  | deinit => exact ⟨_, exec_deinit_of_readyAlone h⟩
  | setCursor row column =>
    simp only [exec, execSetCursor]
    split <;> exact ready _
  | kFunctionSet | kSetCgramAddr => cases hhost
  | _ => exact ready _

/-- Settles O49: the command starts, and on its way every line has a step and leaves fewer to run, until one returns the status. -/
theorem everyCommandReturns : Obligations.EveryCommandReturns := by
  rintro s i hhost (⟨h, hinit⟩ | ⟨h, howner, address, backlightOn, rfl⟩)
  · obtain ⟨hs, -, hopen, hexists, howner⟩ := s.readyAlone_iff.mp h
    obtain ⟨t, ht⟩ := exec_answers_of_readyAlone h hhost hinit
    obtain ⟨hidle, hfree, hstatus⟩ := exec_returned hs howner (fun _ => ⟨hopen, hexists⟩) hhost ht
    exact ⟨t, ht, hidle, hfree, hstatus⟩
  · obtain ⟨hs, -⟩ := s.absentAlone_iff.mp h
    have ht := exec_init_of_absentAlone h address backlightOn
    obtain ⟨hidle, hfree, hstatus⟩ := exec_returned hs howner (fun hl => Bool.noConfusion hl) hhost ht
    exact ⟨_, ht, hidle, hfree, hstatus⟩

end Sys2Proof.Machine
end
